-- ==== Sys2Proof/Word.lean ====
section
/-!
DEFINITION. The words of the block: the 32-bit word every register and operand is (00_scope.md R10), and the
signed 8-bit feature code (R10, R100). Arithmetic on a word is that of `BitVec 32`, modulo 2^32 (R10, D4).
-/

namespace Sys2Proof

/-- `UInt32` of R10: an unsigned 32-bit word; `+`, `-` and `*` are modulo 2^32. -/
abbrev Word := BitVec 32

/-- `Int8` of R10: the signed 8-bit feature code; it is negative when its top bit is set. -/
abbrev FeatureCode := BitVec 8

end Sys2Proof
end

