-- ==== Sys2Proof/Syntax.lean ====
section
/-!
DEFINITION. The commands of the block as data: one constructor per row of spec/opcode_table.json
(30_encoding.md R74), with the operands R72 and R73 give it.
-/

namespace Sys2Proof

/-- The pin identifier of R72, as the three fields of the command word that carry it (R71). -/
structure Pin where
  /-- `PORT`, bits [6:4] -/
  port : BitVec 3
  /-- `PIN`, bits [11:7]: the physical pin within its port -/
  pinno : BitVec 5
  /-- `CHAN`, bits [14:12]; 0 means the pin has no PWM channel -/
  chan : BitVec 3
deriving DecidableEq, Repr

/-- The 14 commands of R74. -/
inductive Instr where
  /-- INIT, R142 -/
  | init (prescale period : Word)
  /-- SETPER, R143 -/
  | setper (period : Word)
  /-- ATTACH, R145 -/
  | attach (pin : Pin) (value : Word)
  /-- SETMATCH, R144 -/
  | setmatch (pin : Pin) (value : Word)
  /-- DETACH, R146 -/
  | detach (pin : Pin)
  /-- PINACT, R125 -/
  | pinact (pin : Pin)
  /-- CHACT, R126 -/
  | chact (pin : Pin)
  /-- FEAT, R101 -/
  | feat (pin : Pin)
  /-- MRADDR, R111 -/
  | mraddr (pin : Pin)
  /-- BITIDX, R124 -/
  | bitidx (pin : Pin)
  /-- MARKACT, R127 -/
  | markact (pin : Pin)
  /-- MARKINACT, R128 -/
  | markinact (pin : Pin)
  /-- MRRD, R112 -/
  | mrrd (pin : Pin)
  /-- MRWR, R113 -/
  | mrwr (pin : Pin) (value : Word)
deriving DecidableEq, Repr

/-- The pin a command names, for every command but the pin-less INIT and SETPER (R75). -/
def Instr.pin? : Instr → Option Pin
  | .init _ _ => none
  | .setper _ => none
  | .attach p _ => some p
  | .setmatch p _ => some p
  | .detach p => some p
  | .pinact p => some p
  | .chact p => some p
  | .feat p => some p
  | .mraddr p => some p
  | .bitidx p => some p
  | .markact p => some p
  | .markinact p => some p
  | .mrrd p => some p
  | .mrwr p _ => some p

/-- The length of a command in words, R73. -/
def Instr.length : Instr → Nat
  | .init _ _ => 3
  | .setper _ => 2
  | .attach _ _ => 2
  | .setmatch _ _ => 2
  | .detach _ => 1
  | .pinact _ => 1
  | .chact _ => 1
  | .feat _ => 1
  | .mraddr _ => 1
  | .bitidx _ => 1
  | .markact _ => 1
  | .markinact _ => 1
  | .mrrd _ => 1
  | .mrwr _ _ => 2

end Sys2Proof
end

