-- ==== Sys2Proof/WellFormed.lean ====
section
/-!
DEFINITION. Which commands are legal as terms (30_encoding.md R72, R75): a pin's port is one of the five ports and its
channel is 0 to 6. Every pin number and every operand word is legal.
-/

namespace Sys2Proof

/-- R72: the pin domain, `port` in 0..4 and `channel` in 0..6. -/
def Pin.wellFormed (p : Pin) : Bool :=
  decide (p.port.toNat ≤ 4) && decide (p.chan.toNat ≤ 6)

/-- R75: a command is legal when the pin it names, if any, is in the domain. -/
def Instr.wellFormed : Instr → Bool
  | .init _ _ => true
  | .setper _ => true
  | .attach p _ => p.wellFormed
  | .setmatch p _ => p.wellFormed
  | .detach p => p.wellFormed
  | .pinact p => p.wellFormed
  | .chact p => p.wellFormed
  | .feat p => p.wellFormed
  | .mraddr p => p.wellFormed
  | .bitidx p => p.wellFormed
  | .markact p => p.wellFormed
  | .markinact p => p.wellFormed
  | .mrrd p => p.wellFormed
  | .mrwr p _ => p.wellFormed

end Sys2Proof
end

