-- ==== Sys2Proof/Decode.lean ====
section
/-!
DEFINITION. The decoder of 30_encoding.md, total on every list of 32-bit words (R76, R77), rejecting by name, and the
encoder of R82. The caller's program is a list of words (R70) that stands in no address space (20_memory.md R61), so
a word is the unit of decoding and no byte order enters.
-/

namespace Sys2Proof

/-- Why a word is illegal (R76). `noCommandWord` is the decoder's answer where there is no word at all. -/
inductive DecodeError where
  | noCommandWord
  | illegalOp
  | reservedNonzero
  | pinFieldsNonzero
  | portOutOfRange
  | channelOutOfRange
  | operandMissing
deriving DecidableEq, Repr

/-! ## The fields of the command word, R71 -/

/-- `OP`, bits [3:0] -/
def fieldOp (w : Word) : BitVec 4 := w.extractLsb' 0 4
/-- `PORT`, bits [6:4] -/
def fieldPort (w : Word) : BitVec 3 := w.extractLsb' 4 3
/-- `PIN`, bits [11:7] -/
def fieldPin (w : Word) : BitVec 5 := w.extractLsb' 7 5
/-- `CHAN`, bits [14:12] -/
def fieldChan (w : Word) : BitVec 3 := w.extractLsb' 12 3
/-- `RSV`, bits [31:15] -/
def fieldRsv (w : Word) : BitVec 17 := w.extractLsb' 15 17

/-! ## The decoder -/

/-- R75, R76: a pin-less command word has zero in `RSV`, `PORT`, `PIN` and `CHAN`. -/
def withNoPin (w : Word) (k : Except DecodeError (Instr × List Word)) : Except DecodeError (Instr × List Word) :=
  if fieldRsv w ≠ 0 then .error .reservedNonzero
  else if fieldPort w ≠ 0 ∨ fieldPin w ≠ 0 ∨ fieldChan w ≠ 0 then .error .pinFieldsNonzero
  else k

/-- R72, R75, R76: a pin command word has `RSV` zero, `PORT` at most 4 and `CHAN` at most 6. -/
def withPin (w : Word) (k : Pin → Except DecodeError (Instr × List Word)) : Except DecodeError (Instr × List Word) :=
  if fieldRsv w ≠ 0 then .error .reservedNonzero
  else if 4 < (fieldPort w).toNat then .error .portOutOfRange
  else if 6 < (fieldChan w).toNat then .error .channelOutOfRange
  else k { port := fieldPort w, pinno := fieldPin w, chan := fieldChan w }

/-- R73, R76: the next operand word, which must not run past the end of the program. -/
def withOperand (ws : List Word) (k : Word → List Word → Except DecodeError (Instr × List Word)) :
    Except DecodeError (Instr × List Word) :=
  match ws with
  | [] => .error .operandMissing
  | v :: rest => k v rest

/-- R74, R77: the command at the head of a list of words, and the words after it. -/
def decode : List Word → Except DecodeError (Instr × List Word)
  | [] => .error .noCommandWord
  | w :: ws =>
    match (fieldOp w).toNat with
    | 0x1 => withNoPin w <| withOperand ws fun prescale ws => withOperand ws fun period ws => .ok (.init prescale period, ws)
    | 0x2 => withNoPin w <| withOperand ws fun period ws => .ok (.setper period, ws)
    | 0x3 => withPin w fun pin => withOperand ws fun value ws => .ok (.attach pin value, ws)
    | 0x4 => withPin w fun pin => withOperand ws fun value ws => .ok (.setmatch pin value, ws)
    | 0x5 => withPin w fun pin => .ok (.detach pin, ws)
    | 0x6 => withPin w fun pin => .ok (.pinact pin, ws)
    | 0x7 => withPin w fun pin => .ok (.chact pin, ws)
    | 0x8 => withPin w fun pin => .ok (.feat pin, ws)
    | 0x9 => withPin w fun pin => .ok (.mraddr pin, ws)
    | 0xA => withPin w fun pin => .ok (.bitidx pin, ws)
    | 0xB => withPin w fun pin => .ok (.markact pin, ws)
    | 0xC => withPin w fun pin => .ok (.markinact pin, ws)
    | 0xD => withPin w fun pin => .ok (.mrrd pin, ws)
    | 0xE => withPin w fun pin => withOperand ws fun value ws => .ok (.mrwr pin value, ws)
    | _ => .error .illegalOp

/-! ## The encoder -/

/-- R82: a pin command word is `OP | (port << 4) | (pinno << 7) | (channel << 12)`. -/
def pinWord (op : Word) (p : Pin) : Word :=
  op ||| (p.port.setWidth 32 <<< 4) ||| (p.pinno.setWidth 32 <<< 7) ||| (p.chan.setWidth 32 <<< 12)

/-- R73, R74, R82: the words of a command, the command word first. -/
def encode : Instr → List Word
  | .init prescale period => [0x1, prescale, period]
  | .setper period => [0x2, period]
  | .attach pin value => [pinWord 0x3 pin, value]
  | .setmatch pin value => [pinWord 0x4 pin, value]
  | .detach pin => [pinWord 0x5 pin]
  | .pinact pin => [pinWord 0x6 pin]
  | .chact pin => [pinWord 0x7 pin]
  | .feat pin => [pinWord 0x8 pin]
  | .mraddr pin => [pinWord 0x9 pin]
  | .bitidx pin => [pinWord 0xA pin]
  | .markact pin => [pinWord 0xB pin]
  | .markinact pin => [pinWord 0xC pin]
  | .mrrd pin => [pinWord 0xD pin]
  | .mrwr pin value => [pinWord 0xE pin, value]

/-! ## Whole programs -/

/-- The pins that the commands of a program name, in order, as far as its words decode: at an illegal word the run
faults, and no later word is a command (R76, R174). `fuel` bounds the number of commands. -/
def pinsWithin : Nat → List Word → List Pin
  | 0, _ => []
  | fuel + 1, ws =>
    match decode ws with
    | .ok (i, rest) => i.pin?.toList ++ pinsWithin fuel rest
    | .error _ => []

/-- The pins a program's commands name: each command takes at least one word. -/
def programPins (ws : List Word) : List Pin := pinsWithin ws.length ws

/-- 70_reset_and_hazards.md R202: two triples with the same port, the same nonzero channel and different pin numbers. -/
def Pin.aliases (p q : Pin) : Bool :=
  p.port == q.port && p.chan == q.chan && p.chan != 0 && p.pinno != q.pinno

/-- R202: some two commands of the program name aliasing pin triples. -/
def namesAliasedPins (ws : List Word) : Bool :=
  (programPins ws).any fun p => (programPins ws).any fun q => p.aliases q

/-! ## The opcode table's numbering -/

/-- The first three words of an instruction whose low `nbits` bits are `w`, the first word lowest; all higher bits are 0. -/
def tableWords (nbits w : Nat) : List Word :=
  let v := w % 2 ^ nbits
  [BitVec.ofNat 32 v, BitVec.ofNat 32 (v >>> 32), BitVec.ofNat 32 (v >>> 64)]

/-- The command the decoder reads from an instruction numbered as spec/opcode_table.json numbers it. -/
def decodeTableWord (nbits w : Nat) : Option Instr :=
  match decode (tableWords nbits w) with
  | .ok (i, _) => some i
  | .error _ => none

end Sys2Proof
end

