-- ==== Sys2Proof/Config.lean ====
section
/-!
DEFINITION. What an implementation fixes (00_scope.md R6, R7) and the one free value (41_register_access.md R112).
A parameter set is a value of `Params`. The model takes it as an argument: the state carries one, which no step
changes (log entry 1), so that a statement about every state is a statement about every parameter set.
-/

namespace Sys2Proof

/-- R6: the number of ports, 0 to 4. -/
abbrev Config.numPorts : Nat := 5

/-- R6: the number of PWM channels, 1 to 6. -/
abbrev Config.numChannels : Nat := 6

/-- R7 `MR_READ_SOURCE`: what a read through the match-register handle returns. -/
inductive MrReadSource where
  | staged
  | applied
  | either
deriving DecidableEq, Repr

/-- R7: the parameters the source leaves open. Which sets are accepted is `paramsAccepted` (R8). -/
structure Params where
  /-- `BASE` -/
  base : Word
  /-- `LOW_OFFSET`: the run of match registers 0 to 3 -/
  lowOffset : Word
  /-- `HIGH_OFFSET`: the run of match registers 4 to 6 -/
  highOffset : Word
  /-- `PR_OFFSET` -/
  prOffset : Word
  /-- `PCR_OFFSET` -/
  pcrOffset : Word
  /-- `LER_OFFSET` -/
  lerOffset : Word
  /-- `ENA_BIT(c)`, c in 1..6: entry c - 1 -/
  enaBit : Vector (Fin 32) 6
  /-- `LER_BIT(i)`, i in 0..6 -/
  lerBit : Vector (Fin 32) 7
  /-- `PERIOD_INDEX` -/
  periodIndex : Fin 7
  /-- `FEATURE_TABLE` -/
  featureTable : Vector FeatureCode 5
  /-- `FEATURE_SENTINEL` -/
  featureSentinel : FeatureCode
  /-- `INIT_PERIOD_BIAS` -/
  initPeriodBias : Fin 2
  /-- `MR_READ_SOURCE` -/
  mrReadSource : MrReadSource
  /-- `TIMER_RUNNING` -/
  timerRunning : Bool
  /-- `PIN_BITS` -/
  pinBits : Nat
deriving DecidableEq, Repr

/-- FREE VALUE (log entry 4). Whether the n-th draw of MRRD under `MR_READ_SOURCE` = EITHER takes the applied value
(true) or the staged one (false). R112 leaves the choice open, so it has no body: nothing can be proved of its values. -/
opaque Config.readTakesApplied : Nat → Bool

end Sys2Proof
end

