-- ==== Sys2Proof/Machine/Parameters.lean ====
section
/-!
DEFINITION. The register map as a function of the parameters: the addresses of 10_state.md R34 and
41_register_access.md R110, the address resolution of 20_memory.md R52, the parameter sets 00_scope.md R8 accepts,
and the default column of R7.
-/

namespace Sys2Proof.Machine

open Sys2Proof

/-- The offset of the run register index `i` lies in: `HIGH_OFFSET` for `i > 3`, else `LOW_OFFSET` (R57, R110). -/
def runOffset (p : Params) (i : Fin 7) : Word := if 3 < i.val then p.highOffset else p.lowOffset

/-- R110: `mr_addr(i) = BASE + (if i > 3 then HIGH_OFFSET else LOW_OFFSET) + 4 * i`. -/
def mrAddr (p : Params) (i : Fin 7) : Word := p.base + runOffset p i + 4 * BitVec.ofNat 32 i.val

/-- R51: `BASE + PR_OFFSET` -/
def prAddr (p : Params) : Word := p.base + p.prOffset
/-- R51: `BASE + PCR_OFFSET` -/
def pcrAddr (p : Params) : Word := p.base + p.pcrOffset
/-- R51: `BASE + LER_OFFSET` -/
def lerAddr (p : Params) : Word := p.base + p.lerOffset

/-- The register indices 0 to 6, in order. -/
def regIndices : List (Fin 7) := [0, 1, 2, 3, 4, 5, 6]

/-- R34, R50: the registers of the peripheral register space, and UNMAPPED for every other address (R52). -/
inductive Reg where
  | mr (i : Fin 7)
  | pr
  | pcr
  | ler
  | unmapped
deriving DecidableEq, Repr

/-- R52: `reg_of(a)`. -/
def regOf (p : Params) (a : Word) : Reg :=
  match regIndices.find? (fun i => a == mrAddr p i) with
  | some i => .mr i
  | none =>
    if a = prAddr p then .pr
    else if a = pcrAddr p then .pcr
    else if a = lerAddr p then .ler
    else .unmapped

/-- R8(b): the addresses of the block's registers. The rule says nine and lists these ten (log entry 10). -/
def regAddrs (p : Params) : List Word :=
  regIndices.map (mrAddr p) ++ [prAddr p, pcrAddr p, lerAddr p]

/-- R8(h): the address sums as natural numbers, before any wrap. -/
def addressSums (p : Params) : List Nat :=
  regIndices.map (fun i => p.base.toNat + (runOffset p i).toNat + 4 * i.val)
    ++ [p.base.toNat + p.prOffset.toNat, p.base.toNat + p.pcrOffset.toNat, p.base.toNat + p.lerOffset.toNat]

/-- R8(g): the six address parameters. -/
def addressParams (p : Params) : List Word :=
  [p.base, p.lowOffset, p.highOffset, p.prOffset, p.pcrOffset, p.lerOffset]

/-- The conditions of R8 (a) to (h) in order, with the types R7 gives `FEATURE_SENTINEL` (negative) and
`PIN_BITS` (5, the width R71 gives the field); log entry 11. -/
abbrev ParamConditions (p : Params) : Prop :=
  p.lowOffset.toNat < p.highOffset.toNat
    ∧ (regAddrs p).Nodup
    ∧ p.enaBit.toList.Nodup
    ∧ p.lerBit.toList.Nodup
    ∧ p.periodIndex = 0
    ∧ (∀ port : Fin 5, (p.featureTable[port].msb = false ∨ p.featureTable[port] = p.featureSentinel))
    ∧ ((addressParams p).all fun w => w.toNat % 4 == 0) = true
    ∧ ((addressSums p).all fun n => decide (n < 2 ^ 32)) = true
    ∧ p.featureSentinel.msb = true
    ∧ p.pinBits = 5

/-- R8: whether a model accepts a parameter set. -/
def paramsAccepted (p : Params) : Bool := decide (ParamConditions p)

/-- The default column of R7 (log entry 1), with `TIMER_RUNNING` true as in the test vectors. -/
def defaultParams : Params where
  base := 0x40018000
  lowOffset := 0x18
  highOffset := 0x30
  prOffset := 0x0C
  pcrOffset := 0x4C
  lerOffset := 0x50
  enaBit := #v[9, 10, 11, 12, 13, 14]
  lerBit := #v[0, 1, 2, 3, 4, 5, 6]
  periodIndex := 0
  featureTable := #v[-1, 2, 1, 3, -1]
  featureSentinel := -1
  initPeriodBias := 1
  mrReadSource := .either
  timerRunning := true
  pinBits := 5

end Sys2Proof.Machine
end

