-- ==== Sys2Proof/Machine/State.lean ====
section
/-!
DEFINITION. The state record of 10_state.md R20 with its reset values (70_reset_and_hazards.md R190), and beside it the
model's own fields: the arguments of the model and of the run, and the choices of the timer and of the caller.
-/

namespace Sys2Proof.Machine

open Sys2Proof

/-- 60_exceptions.md R171: the fault codes, in the order of R173. -/
inductive FaultCode where
  /-- Code 1: an illegal command word (R76). -/
  | illegalEncoding
  /-- Code 2: SETMATCH or ATTACH before INIT. -/
  | notInitialised
  /-- Code 3: a command that needs an index or an address, on a pin with channel 0. -/
  | channelZero
  /-- Code 4: ATTACH on a port whose feature code is negative. -/
  | noPwmFeature
  /-- Code 5: a read of a register that holds `none`. -/
  | readUnwritten
deriving DecidableEq, Repr

/-- Why the machine has no next state. Taking a fault code is no such stop: it is a next state with `fault` set (R174). -/
inductive Fault where
  /-- Raised by every command and every step of a state whose FAULT is set: no agent has a step (R32, R174). Safe. -/
  | halted (code : FaultCode)
  /-- Raised by the register access layer on a whole-word access at an address that is neither a match register nor PR.
  Under an accepted parameter set no command forms such an address (R52). Safe. -/
  | noWordRegister (address : Word)
deriving DecidableEq, Repr

/-- Why the machine gives a program no meaning at all (R185). -/
inductive Refusal where
  /-- An arm of exec that has no meaning yet. Safe. -/
  | notModelled (mnemonic : String)
  /-- Raised by step: the parameter set fails R8. Safe. -/
  | parametersNotAccepted
  /-- Raised by step: the commands come from contexts that can interleave (R182). Safe. -/
  | unserialisedCallers
  /-- Raised by step: the program names two pin triples with one (port, nonzero channel) and different pin numbers
  (R202). Safe. -/
  | aliasedPins
deriving DecidableEq, Repr

/-- The state. The fields from `pc` to `fault` are R20's record; the others are the model's own. -/
@[ext]
structure State where
  /-- The parameter set, an argument of the model (R7, R38; log entry 1). No step changes it. -/
  cfg : Params
  /-- The caller's command list, a parameter of the run (R38, R70; log entry 2). No step changes it. -/
  program : List Word
  /-- The command lists of further contexts that could interleave with the caller's (R182; log entry 9). -/
  unserialised : List (List Word)
  /-- R21: the index of the next command word. -/
  pc : Nat
  /-- R22: `RESULT`, the result port. -/
  result : Option Word
  /-- R23: `ACTIVE`, the Active Pin Bitset. -/
  active : Word
  /-- R24, R25: `MR[0..6]`, the staged match values; index 0 is the period register. -/
  mr : Vector (Option Word) 7
  /-- R26: `APPLIED[0..6]`, the values the timer uses. -/
  applied : Vector (Option Word) 7
  /-- R27: `LER[0..6]`, the pending latch requests. -/
  ler : Vector Bool 7
  /-- R28: `ENA[1..6]`, the output-enable bits; entry c - 1 is channel c's. -/
  ena : Vector Bool 6
  /-- R28: `PCR_OTHER`, the other bits of the control register (log entry 6). -/
  pcrOther : Word
  /-- R29: `PINMUX[0..4, 0..31]`, the function code last handed to the pin-mux. -/
  pinmux : Vector (Vector (Option FeatureCode) 32) 5
  /-- R30: `PR`, the prescale register. -/
  pr : Option Word
  /-- R31: `INITED`. -/
  inited : Bool
  /-- R32: `FAULT`. -/
  fault : Option FaultCode
  /-- The timer's choices, oldest first: does a boundary happen at the next point between access steps (R58, R160)?
  Past the end of the list one happens at every point (R161; log entry 3). -/
  timer : List Bool
  /-- The caller's coming reads of RESULT, each the `pc` at which it happens (R22; log entry 8). -/
  resultReads : List Nat
  /-- How many free values MRRD has drawn (R112; log entry 4). -/
  draws : Nat
deriving DecidableEq, Repr

/-- R190: the state after power-on reset, before a program is placed. -/
def State.reset : State where
  cfg := defaultParams
  program := []
  unserialised := []
  pc := 0
  result := none
  active := 0
  mr := Vector.replicate 7 none
  applied := Vector.replicate 7 none
  ler := Vector.replicate 7 false
  ena := Vector.replicate 6 false
  pcrOther := 0
  pinmux := Vector.replicate 5 (Vector.replicate 32 none)
  pr := none
  inited := false
  fault := none
  timer := []
  resultReads := []
  draws := 0

/-- The three outcomes of a command or a step. -/
abbrev Result := Host.Outcome State Fault Refusal

end Sys2Proof.Machine
end

