-- ==== Sys2Proof/Machine/Operands.lean ====
section
/-!
DEFINITION. Operand forms: the pin triple with its domain checked (30_encoding.md R72, R81), the feature code of a port
(40_resolver.md R100), the registry's bit index and channel mask (42_registry.md R120, R121), and how a result becomes
a word (00_scope.md R10).
-/

namespace Sys2Proof.Machine

open Sys2Proof

/-- A PWM channel c in 1..6, held as c - 1. -/
abbrev Channel := Fin 6

/-- The register index of a channel: match register c belongs to channel c (glossary, "Register index"). -/
def channelReg (c : Channel) : Fin 7 := c.succ

/-- A pin triple inside the domain of R72; `channel` is `none` for channel 0. -/
structure PhysPin where
  port : Fin 5
  pinno : Fin 32
  channel : Option Channel
deriving DecidableEq, Repr

/-- The channel a `CHAN` field names: 1 to 6, and none for 0 (R72). -/
def channelOf (chan : BitVec 3) : Option Channel :=
  if h : 1 ≤ chan.toNat ∧ chan.toNat ≤ 6 then some ⟨chan.toNat - 1, by omega⟩ else none

/-- R72, R81: the triple a pin's fields name, zero-extended; none where a field is outside the domain, which is an
illegal encoding (R76). -/
def resolvePin (p : Pin) : Option PhysPin :=
  if h : p.port.toNat < 5 ∧ p.chan.toNat < 7 then
    some { port := ⟨p.port.toNat, h.1⟩, pinno := p.pinno.toFin, channel := channelOf p.chan }
  else none

/-- R100: `feature_code`, a function of the port alone. -/
def featureCode (p : Params) (port : Fin 5) : FeatureCode := p.featureTable[port]

/-- R145: the port's feature code is negative (the sentinel, R8(f)). -/
def lacksFeature (p : Params) (port : Fin 5) : Bool := (featureCode p port).msb

/-- R120: `bit_index = port * 6 + (channel - 1)`. -/
def bitIndex (port : Fin 5) (c : Channel) : Nat := port.val * 6 + c.val

/-- R9: `1 << k`. -/
def bit (k : Nat) : Word := 1#32 <<< k

/-- The OR of a list of words. -/
def orWords (ws : List Word) : Word := ws.foldr (· ||| ·) 0

/-- R121: `chmask(c)`, the registry bits of channel c over all ports. -/
def chmask (c : Channel) : Word := orWords (([0, 1, 2, 3, 4] : List (Fin 5)).map fun p => bit (bitIndex p c))

/-- R10: `sext_32`. -/
def sext32 (v : FeatureCode) : Word := v.signExtend 32

/-- R10: `false` is 0 and `true` is 1. -/
def boolWord (b : Bool) : Word := if b then 1 else 0

/-- R142: what INIT writes into the period register, `period - INIT_PERIOD_BIAS` modulo 2^32. -/
def initPeriodValue (p : Params) (period : Word) : Word := period - BitVec.ofNat 32 p.initPeriodBias.val

/-- R143: what SETPER writes into the period register, `period - 1` modulo 2^32. -/
def setperPeriodValue (period : Word) : Word := period - 1

/-- R25: the period register is match register 0. -/
def periodReg : Fin 7 := 0

end Sys2Proof.Machine
end

