-- ==== Sys2Proof/Machine/Flags.lean ====
section
/-!
DEFINITION. The block has no flags and no condition codes (10_state.md R33). This file holds the conditions the spec
derives from the state instead: whether a pin and a channel are active (42_registry.md R122, R123), a channel's derived
state (43_controller.md R140), and whether a pin drives its output (R149).
-/

namespace Sys2Proof.Machine

open Sys2Proof

/-- R122 for a channel in 1..6: `ACTIVE[bit_index] = 1`. -/
def ownsChannel (active : Word) (port : Fin 5) (c : Channel) : Bool := active.getLsbD (bitIndex port c)

/-- R123 for a channel in 1..6: `(ACTIVE & chmask(c)) != 0`. -/
def channelOwned (active : Word) (c : Channel) : Bool := (active &&& chmask c) != 0

/-- R122: `pin_active_fn`; false on channel 0. -/
def pinActive (active : Word) (q : PhysPin) : Bool :=
  match q.channel with
  | none => false
  | some c => ownsChannel active q.port c

/-- R123: `channel_active_fn`; false on channel 0. -/
def channelActive (active : Word) (q : PhysPin) : Bool :=
  match q.channel with
  | none => false
  | some c => channelOwned active c

/-- R140: the derived states of a channel. -/
inductive ChannelState where
  | idle
  | active
deriving DecidableEq, Repr

/-- R140: a channel is Active when it has an owner, else Idle. It is not stored. -/
def channelState (s : State) (c : Channel) : ChannelState :=
  if channelOwned s.active c then .active else .idle

/-- R149: `driving(pin)`. -/
def driving (s : State) (q : PhysPin) : Bool :=
  match q.channel with
  | none => false
  | some c =>
    !lacksFeature s.cfg q.port && s.ena[c] && (s.pinmux[q.port][q.pinno] == some (featureCode s.cfg q.port))

end Sys2Proof.Machine
end

