-- ==== Sys2Proof/Machine/Ops.lean ====
section
/-!
DEFINITION. The named operations over the state: single register writes, the word views of the peripheral space, the
register access layer, taking a fault, the timer's boundary and its turns, the fault checks of a command, the caller's
turn, and what a program is refused for.
-/

namespace Sys2Proof.Machine

open Sys2Proof

/-! ## One register at a time -/

/-- R24: a write of match register i stages a value. -/
def State.setMr (s : State) (i : Fin 7) (v : Word) : State := { s with mr := s.mr.set i (some v) }

/-- R30: a write of the prescale register. -/
def State.setPr (s : State) (v : Word) : State := { s with pr := some v }

/-- R141: `request_latch(i)`, a set of one bit of the latch-enable register. -/
def State.requestLatch (s : State) (i : Fin 7) : State := { s with ler := s.ler.set i true }

/-- R28, R55: a set or clear of channel c's output-enable bit, which changes no other bit. -/
def State.setEna (s : State) (c : Channel) (b : Bool) : State := { s with ena := s.ena.set c b }

/-- R127: `mark_active`. -/
def State.markActive (s : State) (port : Fin 5) (c : Channel) : State :=
  { s with active := s.active ||| bit (bitIndex port c) }

/-- R128: `mark_inactive`. -/
def State.markInactive (s : State) (port : Fin 5) (c : Channel) : State :=
  { s with active := s.active &&& ~~~ bit (bitIndex port c) }

/-- R29: the function code handed to the pin-mux for one physical pin. -/
def State.setPinmux (s : State) (port : Fin 5) (pinno : Fin 32) (v : FeatureCode) : State :=
  { s with pinmux := s.pinmux.set port (s.pinmux[port].set pinno (some v)) }

/-- R22: a query writes the result port. -/
def State.setResult (s : State) (v : Word) : State := { s with result := some v }

/-- R31: INIT has completed. -/
def State.setInited (s : State) : State := { s with inited := true }

/-- R21: the command pointer moves past a command of `n` words. -/
def State.advance (s : State) (n : Nat) : State := { s with pc := s.pc + n }

/-- One free value has been drawn (log entry 4). -/
def State.countDraw (s : State) : State := { s with draws := s.draws + 1 }

/-- R174: taking a fault. FAULT records the code, and every other component keeps its value; `pc` still indexes the
faulting command word. There is no return from a fault (R175). -/
def State.raiseFault (s : State) (code : FaultCode) : State := { s with fault := some code }

/-! ## The timer agent -/

/-- R160: BOUNDARY, one indivisible step: every pending register's staged value is adopted and every request cleared. -/
def State.boundary (s : State) : State :=
  { s with
    applied := Vector.ofFn fun i => if s.ler[i] then s.mr[i] else s.applied[i]
    ler := Vector.replicate 7 false }

/-- R160: whether the boundary step is enabled. -/
def State.boundaryEnabled (s : State) : Bool := s.cfg.timerRunning && s.fault.isNone

/-- Whether a boundary happens at the coming point between access steps: it is enabled and the timer chooses it. Past the
end of the timer's choices it always does (R161; log entry 3). -/
def State.boundaryComes (s : State) : Bool := s.boundaryEnabled && s.timer.headD true

/-- The timer's turn at one point between access steps (R58): it takes a boundary step or lets the point pass. More than
one boundary at one point is the same as one, since a boundary leaves no request pending. -/
def State.timerTurn (s : State) : State :=
  let t := if s.boundaryComes then s.boundary else s
  { t with timer := s.timer.tail }

/-! ## The peripheral registers as words -/

/-- The control-register bits that belong to some channel (R28). -/
def enaMask (p : Params) : Word := orWords (([0, 1, 2, 3, 4, 5] : List Channel).map fun c => bit p.enaBit[c].val)

/-- R28, R34: the control register as one word: `ENA[c]` at bit `ENA_BIT(c)`, `PCR_OTHER` everywhere else. -/
def State.pcrWord (s : State) : Word :=
  (s.pcrOther &&& ~~~ enaMask s.cfg)
    ||| orWords (([0, 1, 2, 3, 4, 5] : List Channel).map fun c => if s.ena[c] then bit s.cfg.enaBit[c].val else 0)

/-- R27, R34: the modelled bits of the latch-enable register as one word: `LER[i]` at bit `LER_BIT(i)`. -/
def State.lerWord (s : State) : Word :=
  orWords (regIndices.map fun i => if s.ler[i] then bit s.cfg.lerBit[i].val else 0)

/-- R34, R52: what the register at a peripheral address holds (for a match register the staged value): none where no
register stands, `some none` where the register has not been written. -/
def State.registerAt (s : State) (a : Word) : Option (Option Word) :=
  match regOf s.cfg a with
  | .mr i => some s.mr[i]
  | .pr => some s.pr
  | .pcr => some (some s.pcrWord)
  | .ler => some (some s.lerWord)
  | .unmapped => none

/-- R53: one byte of the peripheral space, little-endian: byte a + k of the word at a is bits [8k+7:8k]. No access of the
block is narrower than a word; this is the view statements about every byte use. -/
def State.byteAt (s : State) (a : Word) : Option (Option (BitVec 8)) :=
  (s.registerAt (a &&& ~~~ 3#32)).map fun r => r.map fun w => w.extractLsb' (8 * (a &&& 3#32).toNat) 8

/-! ## The register access layer -/

/-- Carries a next state on to the rest of a command, and keeps a stop. -/
def andThen (o : Result) (k : State → Result) : Result :=
  match o with
  | .next s => k s
  | .fault r => .fault r
  | .refused r => .refused r

/-- `MemWrite(a, 4, v)` of 00_scope.md R11: the address is resolved through R52. A command writes whole words only to the
match registers and PR; LER and PCR are written one bit at a time (R55). -/
def State.busWrite (s : State) (a v : Word) : Result :=
  match regOf s.cfg a with
  | .mr i => .next (s.setMr i v)
  | .pr => .next (s.setPr v)
  | .pcr => .fault (.noWordRegister a)
  | .ler => .fault (.noWordRegister a)
  | .unmapped => .fault (.noWordRegister a)

/-- R112: `candidates`, the values a read of a match register may give. -/
def State.readCandidates (s : State) (i : Fin 7) : List Word :=
  match s.cfg.mrReadSource with
  | .staged => s.mr[i].toList
  | .applied => if s.applied[i].isSome then s.applied[i].toList else s.mr[i].toList
  | .either => s.mr[i].toList ++ s.applied[i].toList

/-- R112: the value a read of match register i gives. Under EITHER the choice between a staged and an applied value is
the free value `Config.readTakesApplied` (log entry 4). -/
def State.readMatch (s : State) (i : Fin 7) : Option Word :=
  match s.cfg.mrReadSource with
  | .staged => s.mr[i]
  | .applied => s.applied[i].or s.mr[i]
  | .either =>
    if s.applied[i].isSome && Config.readTakesApplied s.draws then s.applied[i] else s.mr[i]

/-- `MemRead(a, 4)` of R11, which only MRRD performs, on a match register (R12). A register without a value is
READ_UNWRITTEN. -/
def State.busRead (s : State) (a : Word) (k : Word → State → Result) : Result :=
  match regOf s.cfg a with
  | .mr i =>
    match s.readMatch i with
    | some v => k v s.countDraw
    | none => .next (s.raiseFault .readUnwritten)
  | .pr => .fault (.noWordRegister a)
  | .pcr => .fault (.noWordRegister a)
  | .ler => .fault (.noWordRegister a)
  | .unmapped => .fault (.noWordRegister a)

/-! ## Issuing a command: the checks of R172, in the order of R173 -/

/-- A command is issued only while FAULT is `none` (R32, R174). -/
def State.issue (s : State) (k : Result) : Result :=
  match s.fault with
  | some code => .fault (.halted code)
  | none => k

/-- A pin command is issued: a pin outside the domain is an illegal encoding (R72, R76). -/
def State.issuePin (s : State) (p : Pin) (k : PhysPin → Result) : Result :=
  s.issue <|
    match resolvePin p with
    | none => .next (s.raiseFault .illegalEncoding)
    | some q => k q

/-- The NOT_INITIALISED check. -/
def State.requireInited (s : State) (k : Result) : Result :=
  if s.inited then k else .next (s.raiseFault .notInitialised)

/-- The CHANNEL_ZERO check. -/
def State.requireChannel (s : State) (q : PhysPin) (k : Channel → Result) : Result :=
  match q.channel with
  | none => .next (s.raiseFault .channelZero)
  | some c => k c

/-- The NO_PWM_FEATURE check. -/
def State.requireFeature (s : State) (q : PhysPin) (k : Result) : Result :=
  if lacksFeature s.cfg q.port then .next (s.raiseFault .noPwmFeature) else k

/-- The READ_UNWRITTEN check of MRRD. -/
def State.requireStaged (s : State) (i : Fin 7) (k : Result) : Result :=
  if s.mr[i].isNone then .next (s.raiseFault .readUnwritten) else k

/-- The one access step of a query, the write of the result port, and the move past its one word. -/
def State.answer (s : State) (v : Word) : Result := .next ((s.setResult v).advance 1)

/-- The two access steps that stage a match value and request its latch (SETMATCH and ATTACH s1, s2; INIT s2, s3; SETPER
s1, s2), with the timer's turn between them (R58, R141). -/
def State.stageAndLatch (s : State) (i : Fin 7) (v : Word) (k : State → Result) : Result :=
  andThen (s.busWrite (mrAddr s.cfg i) v) fun s1 => k (s1.timerTurn.requestLatch i)

/-! ## The caller's turn -/

/-- What the caller does next. -/
inductive CallerAction where
  /-- It reads RESULT (R22). -/
  | readResult
  /-- Its command list is exhausted: the run has completed (R191). -/
  | finished
  /-- The word at `pc` is illegal (R76). -/
  | illegal (why : DecodeError)
  /-- It issues this command. -/
  | issue (i : Instr)
deriving DecidableEq, Repr

/-- R21, R22, R70, R76: the caller's next action. A read of RESULT due at this `pc` comes before the command there. DESIGN
CHOICE (log entry 8): a read due at the end of the command list is performed, although the spec does not say whether a
read may follow completion (R191); a read of `none` there faults a state that had completed. -/
def State.callerAction (s : State) : CallerAction :=
  if s.resultReads.head? = some s.pc then .readResult
  else if s.program.length ≤ s.pc then .finished
  else
    match decode (s.program.drop s.pc) with
    | .error e => .illegal e
    | .ok (i, _) => .issue i

/-- R22: what the caller's read of RESULT does: a read of `none` records READ_UNWRITTEN, any other read changes nothing
but the list of coming reads. -/
def State.callerRead (s : State) : State :=
  match s.result with
  | none => s.raiseFault .readUnwritten
  | some _ => { s with resultReads := s.resultReads.tail }

/-! ## Refused programs -/

/-- R182: the commands come from contexts that can interleave. -/
def State.hasUnserialised (s : State) : Bool := s.unserialised.any fun ws => !ws.isEmpty

/-- What the machine refuses a program for (R8, R182, R185, R202), if anything. -/
def State.refusal? (s : State) : Option Refusal :=
  if !paramsAccepted s.cfg then some .parametersNotAccepted
  else if s.hasUnserialised then some .unserialisedCallers
  else if namesAliasedPins s.program then some .aliasedPins
  else none

/-- The next state of an outcome that has one. -/
def next? (o : Result) : Option State :=
  match o with
  | .next s => some s
  | .fault _ => none
  | .refused _ => none

end Sys2Proof.Machine
end

