-- ==== Sys2Proof/Machine/Controller.lean ====
section
/-!
DEFINITION. The Channel Activation Controller's commands (43_controller.md). The access steps of a command stand in the
order of its pseudocode, with the timer's turn between any two of them (20_memory.md R58); the turn before the first
one is the step's (Machine/Step.lean).
-/

namespace Sys2Proof.Machine

open Sys2Proof

/-- INIT, R142: the prescale, the period and its latch request; INITED is set in the last access step. -/
def execInit (prescale period : Word) (s : State) : Result :=
  s.issue <|
    andThen (s.busWrite (prAddr s.cfg) prescale) fun s1 =>
      s1.timerTurn.stageAndLatch periodReg (initPeriodValue s.cfg period) fun s3 => .next (s3.setInited.advance 3)

/-- SETPER, R143: the period less one, and its latch request. -/
def execSetper (period : Word) (s : State) : Result :=
  s.issue <| s.stageAndLatch periodReg (setperPeriodValue period) fun s2 => .next (s2.advance 2)

/-- SETMATCH, R144: stage a channel's match value and request its latch. -/
def execSetmatch (pin : Pin) (value : Word) (s : State) : Result :=
  s.issuePin pin fun q => s.requireInited <| s.requireChannel q fun c =>
    s.stageAndLatch (channelReg c) value fun s2 => .next (s2.advance 2)

/-- The access step ATTACH s4: when the channel had no owner before the mark, its enable bit is set; otherwise no access
is performed, so the timer has no turn of its own. -/
def enableIfIdle (s : State) (c : Channel) (was : Bool) : State :=
  if was then s else s.timerTurn.setEna c true

/-- ATTACH, R145: as SETMATCH, then mark the pin, enable an Idle channel, and select the pin's PWM function. -/
def execAttach (pin : Pin) (value : Word) (s : State) : Result :=
  s.issuePin pin fun q => s.requireInited <| s.requireChannel q fun c => s.requireFeature q <|
    s.stageAndLatch (channelReg c) value fun s2 =>
      let t := s2.timerTurn
      let was := channelOwned t.active c
      let s4 := enableIfIdle (t.markActive q.port c) c was
      .next ((s4.timerTurn.setPinmux q.port q.pinno (featureCode s.cfg q.port)).advance 2)

/-- The access step DETACH s2: when no owner remains, the channel's enable bit is cleared; otherwise no access is
performed. -/
def disableIfUnowned (s : State) (c : Channel) (still : Bool) : State :=
  if still then s else s.timerTurn.setEna c false

/-- DETACH, R146: clear the pin's registry bit, and disable a channel left without an owner. -/
def execDetach (pin : Pin) (s : State) : Result :=
  s.issuePin pin fun q => s.requireChannel q fun c =>
    let s1 := s.markInactive q.port c
    .next ((disableIfUnowned s1 c (channelOwned s1.active c)).advance 1)

end Sys2Proof.Machine
end

