-- ==== Sys2Proof/Machine/RegisterAccess.lean ====
section
/-!
DEFINITION. The Register Access Layer's commands (41_register_access.md).
-/

namespace Sys2Proof.Machine

open Sys2Proof

/-- MRADDR, R111: the address of the pin's match register. -/
def execMraddr (pin : Pin) (s : State) : Result :=
  s.issuePin pin fun q => s.requireChannel q fun c => s.answer (mrAddr s.cfg (channelReg c))

/-- MRRD, R112: a read through the match-register handle. -/
def execMrrd (pin : Pin) (s : State) : Result :=
  s.issuePin pin fun q => s.requireChannel q fun c => s.requireStaged (channelReg c) <|
    s.busRead (mrAddr s.cfg (channelReg c)) fun v s1 => s1.answer v

/-- MRWR, R113, R114: a write through the match-register handle, which requests no latch. -/
def execMrwr (pin : Pin) (value : Word) (s : State) : Result :=
  s.issuePin pin fun q => s.requireChannel q fun c =>
    andThen (s.busWrite (mrAddr s.cfg (channelReg c)) value) fun s1 => .next (s1.advance 2)

end Sys2Proof.Machine
end

