-- ==== Sys2Proof/Machine/Registry.lean ====
section
/-!
DEFINITION. The Active Channel Registry's commands (42_registry.md).
-/

namespace Sys2Proof.Machine

open Sys2Proof

/-- BITIDX, R124: the pin's registry bit index. -/
def execBitidx (pin : Pin) (s : State) : Result :=
  s.issuePin pin fun q => s.requireChannel q fun c => s.answer (BitVec.ofNat 32 (bitIndex q.port c))

/-- PINACT, R125: whether this exact pin is active; 0 on channel 0. -/
def execPinact (pin : Pin) (s : State) : Result :=
  s.issuePin pin fun q => s.answer (boolWord (pinActive s.active q))

/-- CHACT, R126: whether any owner keeps the pin's channel alive; 0 on channel 0. -/
def execChact (pin : Pin) (s : State) : Result :=
  s.issuePin pin fun q => s.answer (boolWord (channelActive s.active q))

/-- MARKACT, R127: set the pin's registry bit. -/
def execMarkact (pin : Pin) (s : State) : Result :=
  s.issuePin pin fun q => s.requireChannel q fun c => .next ((s.markActive q.port c).advance 1)

/-- MARKINACT, R128: clear the pin's registry bit. -/
def execMarkinact (pin : Pin) (s : State) : Result :=
  s.issuePin pin fun q => s.requireChannel q fun c => .next ((s.markInactive q.port c).advance 1)

end Sys2Proof.Machine
end

