-- ==== Sys2Proof/Machine/Resolver.lean ====
section
/-!
DEFINITION. The Pin Feature Resolver's command (40_resolver.md).
-/

namespace Sys2Proof.Machine

open Sys2Proof

/-- FEAT, R101: the port's feature code, sign-extended. -/
def execFeat (pin : Pin) (s : State) : Result :=
  s.issuePin pin fun q => s.answer (sext32 (featureCode s.cfg q.port))

end Sys2Proof.Machine
end

