-- ==== Sys2Proof/Machine/Dispatch.lean ====
section
/-!
DEFINITION. One arm per command of 30_encoding.md R74: a direct call of its meaning.
-/

namespace Sys2Proof.Machine

open Sys2Proof

def exec (i : Instr) (s : State) : Host.Outcome State Fault Refusal :=
  match i with
  | .init prescale period => Sys2Proof.Machine.execInit prescale period s
  | .setper period => Sys2Proof.Machine.execSetper period s
  | .attach pin value => Sys2Proof.Machine.execAttach pin value s
  | .setmatch pin value => Sys2Proof.Machine.execSetmatch pin value s
  | .detach pin => Sys2Proof.Machine.execDetach pin s
  | .pinact pin => Sys2Proof.Machine.execPinact pin s
  | .chact pin => Sys2Proof.Machine.execChact pin s
  | .feat pin => Sys2Proof.Machine.execFeat pin s
  | .mraddr pin => Sys2Proof.Machine.execMraddr pin s
  | .bitidx pin => Sys2Proof.Machine.execBitidx pin s
  | .markact pin => Sys2Proof.Machine.execMarkact pin s
  | .markinact pin => Sys2Proof.Machine.execMarkinact pin s
  | .mrrd pin => Sys2Proof.Machine.execMrrd pin s
  | .mrwr pin value => Sys2Proof.Machine.execMrwr pin value s

end Sys2Proof.Machine
end

