-- ==== Sys2Proof/Machine/Step.lean ====
section
/-!
DEFINITION. One step of the machine: the timer's turn, then the caller's (20_memory.md R58). A program the machine
refuses has no step (60_exceptions.md R185), nor has a faulted state (R174).
-/

namespace Sys2Proof.Machine

open Sys2Proof

/-- The caller's turn: it reads RESULT, issues its next command, or has none left. An illegal word takes
ILLEGAL_ENCODING (R76). -/
def callerTurn (s : State) : Result :=
  match s.callerAction with
  | .readResult => .next s.callerRead
  | .finished => .next s
  | .illegal _ => .next (s.raiseFault .illegalEncoding)
  | .issue i => exec i s

/-- One step: refused, halted, or the timer's turn followed by the caller's. -/
def step (s : State) : Host.Outcome State Fault Refusal :=
  match s.refusal? with
  | some r => .refused r
  | none =>
    match s.fault with
    | some code => .fault (.halted code)
    | none => callerTurn s.timerTurn

/-- The state with an instruction placed where `step` fetches the next one: its words, numbered as the opcode table
numbers them, stand at `pc` in the command list (zero words before them, which are no commands), no read of RESULT is due
before it, and no other context calls (log entry 2). -/
def State.withFetchWord (s : State) (nbits w : Nat) : State :=
  { s with
    program := List.replicate s.pc 0 ++ tableWords nbits w
    unserialised := []
    resultReads := s.resultReads.dropWhile (· == s.pc) }

end Sys2Proof.Machine
end

