-- ==== Sys2Proof/Safety.lean ====
section
/-!
DEFINITION. The parameter sets of 00_scope.md R8 written out, the invariants of 10_state.md (INV1 R35,
INV2 R36) and of the latch (41_register_access.md R112, 43_controller.md R160), and the ends of a run
(70_reset_and_hazards.md R191).
-/

namespace Sys2Proof.Machine

open Sys2Proof

/-- R8 (a) to (h), each written out, and the two conditions of log entry 11 (DEDUCED). R8(b) says nine addresses and lists
the ten that stand here (log entry 10, DEDUCED). -/
structure LegalParams (p : Params) : Prop where
  /-- (a) -/
  highAboveLow : p.lowOffset.toNat < p.highOffset.toNat
  /-- (b), of two match registers -/
  matchDistinct : ∀ i j : Fin 7, i ≠ j →
    p.base + (if 3 < i.val then p.highOffset else p.lowOffset) + 4 * BitVec.ofNat 32 i.val
      ≠ p.base + (if 3 < j.val then p.highOffset else p.lowOffset) + 4 * BitVec.ofNat 32 j.val
  /-- (b), of a match register and one of PR, PCR and LER -/
  matchNotFixed : ∀ i : Fin 7, ∀ offset ∈ [p.prOffset, p.pcrOffset, p.lerOffset],
    p.base + (if 3 < i.val then p.highOffset else p.lowOffset) + 4 * BitVec.ofNat 32 i.val ≠ p.base + offset
  /-- (b), of PR, PCR and LER -/
  fixedDistinct : p.base + p.prOffset ≠ p.base + p.pcrOffset ∧ p.base + p.prOffset ≠ p.base + p.lerOffset
    ∧ p.base + p.pcrOffset ≠ p.base + p.lerOffset
  /-- (c) -/
  enaBitInjective : ∀ c d : Channel, p.enaBit[c] = p.enaBit[d] → c = d
  /-- (d) -/
  lerBitInjective : ∀ i j : Fin 7, p.lerBit[i] = p.lerBit[j] → i = j
  /-- (e) -/
  periodIndexZero : p.periodIndex = 0
  /-- (f) -/
  featureOrSentinel : ∀ port : Fin 5, 0 ≤ p.featureTable[port].toInt ∨ p.featureTable[port] = p.featureSentinel
  /-- (g) -/
  aligned : ∀ w ∈ [p.base, p.lowOffset, p.highOffset, p.prOffset, p.pcrOffset, p.lerOffset], w.toNat % 4 = 0
  /-- (h), of the match registers -/
  matchNoWrap : ∀ i : Fin 7,
    p.base.toNat + (if 3 < i.val then p.highOffset else p.lowOffset).toNat + 4 * i.val < 2 ^ 32
  /-- (h), of PR, PCR and LER -/
  fixedNoWrap : ∀ offset ∈ [p.prOffset, p.pcrOffset, p.lerOffset], p.base.toNat + offset.toNat < 2 ^ 32
  /-- `FEATURE_SENTINEL` is negative (R7; log entry 11) -/
  sentinelNegative : p.featureSentinel.toInt < 0
  /-- `PIN_BITS` is the width of the PIN field (R7, R71; log entry 11) -/
  pinBitsFive : p.pinBits = 5

/-- INV1, R35: every channel's enable bit is set exactly when the channel has an owner. -/
abbrev EnableTracksOwners (s : State) : Prop := ∀ c : Channel, s.ena[c] = channelOwned s.active c

/-- INV2, R36: `ACTIVE[31:30] = 0`. -/
abbrev TopBitsClear (s : State) : Prop := s.active.extractLsb' 30 2 = 0

/-- R160: `MR[i]` is not `none` whenever `LER[i]` is set. -/
abbrev LatchedIsStaged (s : State) : Prop := ∀ i : Fin 7, s.ler[i] = true → s.mr[i].isSome = true

/-- R112: `APPLIED[c] != none` implies `MR[c] != none`. -/
abbrev AppliedIsStaged (s : State) : Prop := ∀ i : Fin 7, s.applied[i].isSome = true → s.mr[i].isSome = true

/-- R21, R191: the command pointer does not pass the end of the command list. -/
abbrev PcInProgram (s : State) : Prop := s.pc ≤ s.program.length

/-- R191: the run has completed. -/
abbrev Completed (s : State) : Prop := s.pc = s.program.length ∧ s.fault = none

/-- R191: the run has faulted. -/
abbrev Faulted (s : State) : Prop := s.fault.isSome = true

/-- R191: no latch request is pending. -/
abbrev Settled (s : State) : Prop := ∀ i : Fin 7, s.ler[i] = false

/-- R191: the three ways a run ends, and a run that has not ended. -/
inductive RunStatus where
  | running
  | completed
  | faulted
  | refused
deriving DecidableEq, Repr

/-- R191: where a run stands. -/
def runStatus (s : State) : RunStatus :=
  if s.refusal?.isSome then .refused
  else if s.fault.isSome then .faulted
  else if s.pc = s.program.length then .completed
  else .running

/-- R160, R191: a state after `n` boundary steps, each taken where it is enabled. -/
def afterBoundaries : Nat → State → State
  | 0, s => s
  | n + 1, s => afterBoundaries n (if s.boundaryEnabled then s.boundary else s)

/-- R191: an end state of a completed run is the state at completion or one that boundary steps reach from it. -/
def IsEndState (done t : State) : Prop := Completed done ∧ ∃ n, t = afterBoundaries n done

/-- R72: the pin triple `(port, pinno, channel)`; every legal pin is one. -/
def pinOf (port : Fin 5) (pinno : Fin 32) (chan : Fin 7) : Pin where
  port := BitVec.ofNat 3 port.val
  pinno := BitVec.ofNat 5 pinno.val
  chan := BitVec.ofNat 3 chan.val

/-- Whether a running machine takes a boundary at the coming point number `k` between access steps, 0 the next one: the
timer runs and its list of choices says so (log entry 3). -/
def State.boundaryAt (s : State) (k : Nat) : Bool := s.cfg.timerRunning && s.timer.getD k true

/-- No boundary comes at the next `n` points between access steps: the timer does not run, or it lets them pass. -/
abbrev QuietFor (n : Nat) (s : State) : Prop := ∀ k < n, s.boundaryAt k = false

/-- What boundaries between `s` and `t` may have done to register j, on which neither a write nor a latch request fell:
nothing, or its request was taken and its staged value adopted (R160). -/
def KeptOrAdopted (s t : State) (j : Fin 7) : Prop :=
  (t.ler[j] = s.ler[j] ∧ t.applied[j] = s.applied[j])
    ∨ (t.ler[j] = false ∧ t.applied[j] = if s.ler[j] then s.mr[j] else s.applied[j])

end Sys2Proof.Machine
end

