-- ==== Sys2Proof/Certificates/Slice0/Obligations.lean ====
section
/-!
DEFINITION. The statements for the provers. Throughout, a pin is written `pinOf port pinno channel` (every legal pin is
one, `EveryLegalPinIsATriple`), `c : Channel` stands for the channel c + 1 of the spec, so that `c.succ` is its match
register, and `s.fault = none` says the machine runs. A command's next state is given as a whole state, so that every
component not named is unchanged. Where a command has several access steps, the timer may take a boundary between two of
them (20_memory.md R58): `QuietFor` says it does not, `KeptOrAdopted` what it may have done.
-/

open Sys2Proof Sys2Proof.Machine

/-! ## Decoding and encoding -/

/-- The example words of 30_encoding.md R82 decode to the commands they stand for. -/
def Obligations.SpecExampleWordsDecode : Prop :=
  decode [0x00000001, 0x00000000, 0x000003E8] = .ok (.init 0 1000, [])
    ∧ decode [0x00000002, 0x00004E20] = .ok (.setper 20000, [])
    ∧ decode [0x00003A93, 0x000001F4] = .ok (.attach ⟨1, 21, 3⟩ 500, [])
    ∧ decode [0x00003A95] = .ok (.detach ⟨1, 21, 3⟩, [])
    ∧ decode [0x00003127] = .ok (.chact ⟨2, 2, 3⟩, [])
    ∧ decode [0x00000008] = .ok (.feat ⟨0, 0, 0⟩, [])
    ∧ decode [0x000062A9] = .ok (.mraddr ⟨2, 5, 6⟩, [])

/-- R71 to R75, R82: decoding the words of a legal command gives it back, with the words after it. -/
def Obligations.DecodeOfEncodeIsIdentity : Prop :=
  ∀ (i : Instr) (rest : List Word), i.wellFormed = true → decode (encode i ++ rest) = .ok (i, rest)

/-- R71 to R76: whatever decodes is a legal command, and the words read are exactly its encoding. -/
def Obligations.OnlyEncodingsDecode : Prop :=
  ∀ (ws rest : List Word) (i : Instr), decode ws = .ok (i, rest) → i.wellFormed = true ∧ ws = encode i ++ rest

/-- R76: a command word is illegal exactly in the listed cases, and executing it takes ILLEGAL_ENCODING with no effect
on any other state. The timer's turn that the step takes before it is the model's form (log entry 3, a DESIGN CHOICE). -/
def Obligations.IllegalWordsAreExactlyTheListed : Prop :=
  (∀ (w : Word) (ws : List Word),
    (∃ e, decode (w :: ws) = .error e) ↔
      let op := (w.extractLsb' 0 4).toNat
      let operands := if op = 1 then 2 else if op = 2 ∨ op = 3 ∨ op = 4 ∨ op = 14 then 1 else 0
      op = 0 ∨ op = 15 ∨ w.extractLsb' 15 17 ≠ 0
        ∨ ((op = 1 ∨ op = 2) ∧ w.extractLsb' 4 11 ≠ 0)
        ∨ (3 ≤ op ∧ op ≤ 14 ∧ (4 < (w.extractLsb' 4 3).toNat ∨ (w.extractLsb' 12 3).toNat = 7))
        ∨ ws.length < operands)
  ∧ ∀ (s : State) (e : DecodeError), s.refusal? = none → s.fault = none → s.resultReads.head? ≠ some s.pc →
      s.pc < s.program.length → decode (s.program.drop s.pc) = .error e →
      step s = .next { s.timerTurn with fault := some .illegalEncoding }

/-- R72: every legal pin is a triple (port 0..4, pin number 0..31, channel 0..6), and each triple is one legal pin. -/
def Obligations.EveryLegalPinIsATriple : Prop :=
  (∀ p : Pin, p.wellFormed = true → ∃ port n chan, p = pinOf port n chan)
    ∧ (∀ port n chan, (pinOf port n chan).wellFormed = true)
    ∧ ∀ port n chan port' n' chan', pinOf port n chan = pinOf port' n' chan' → port = port' ∧ n = n' ∧ chan = chan'

/-- R202: the pins a program names are those of its commands, in order. -/
def Obligations.ProgramPinsAreThoseOfItsCommands : Prop :=
  ∀ cmds : List Instr, (∀ i ∈ cmds, i.wellFormed = true) →
    programPins (cmds.flatMap encode) = cmds.filterMap Instr.pin?

/-! ## The step -/

/-- R58, R77: a step runs the command decoded at `pc`, after the timer's turn. -/
def Obligations.StepRunsTheDecodedCommand : Prop :=
  ∀ (s : State) (i : Instr) (rest : List Word), s.refusal? = none → s.fault = none →
    s.resultReads.head? ≠ some s.pc → s.pc < s.program.length → decode (s.program.drop s.pc) = .ok (i, rest) →
    step s = exec i s.timerTurn

/-- R191: after completion only the timer has a step. That the caller's turn is then an idle next state is the model's
choice (log entry 3). -/
def Obligations.CompletedRunOnlyTurnsTheTimer : Prop :=
  ∀ s : State, s.refusal? = none → Completed s → s.resultReads.head? ≠ some s.pc →
    step s = .next s.timerTurn ∧ runStatus s = .completed

/-- R22, R171: a step with a read of RESULT due takes the timer's turn (log entry 3, a DESIGN CHOICE) and then the read,
which records READ_UNWRITTEN while RESULT is `none` and otherwise changes nothing but the model's list of coming reads
(log entry 8, a DESIGN CHOICE, which also admits a read after the last command). -/
def Obligations.CallerReadOfResult : Prop :=
  ∀ s : State, s.refusal? = none → s.fault = none → s.resultReads.head? = some s.pc →
    (s.result = none → step s = .next { s.timerTurn with fault := some .readUnwritten })
      ∧ (∀ v, s.result = some v → step s = .next { s.timerTurn with resultReads := s.resultReads.tail })

/-- R8: a parameter set is accepted exactly if it meets (a) to (h), over the ten listed addresses (log entry 10, DEDUCED),
with a negative sentinel and a pin number of five bits (log entry 11, DEDUCED). -/
def Obligations.AcceptedParameterSets : Prop :=
  ∀ p : Params, paramsAccepted p = true ↔ LegalParams p

/-- R8, R182, R202: the machine refuses exactly a parameter set that fails one of R8 (a) to (h) or of log entry 11
(DEDUCED; R8(b) over ten addresses, log entry 10, DEDUCED), a program with a further context that issues commands (log
entry 9, a DESIGN CHOICE), and one that names two triples with one (port, nonzero channel) and different pin numbers (log
entry 13, DEDUCED). -/
def Obligations.MachineRefusesExactly : Prop :=
  ∀ s : State, (∃ r, step s = .refused r) ↔
    ¬ LegalParams s.cfg
      ∨ (∃ ws ∈ s.unserialised, ws ≠ [])
      ∨ ∃ p ∈ programPins s.program, ∃ q ∈ programPins s.program,
          p.port = q.port ∧ p.chan = q.chan ∧ p.chan ≠ 0 ∧ p.pinno ≠ q.pinno

/-- R38, R61, R28: no step changes the parameters, the command lists or `PCR_OTHER`. -/
def Obligations.StepKeepsArgumentsOfTheRun : Prop :=
  ∀ s t : State, step s = .next t →
    t.cfg = s.cfg ∧ t.program = s.program ∧ t.unserialised = s.unserialised ∧ t.pcrOther = s.pcrOther

/-- R21: a command that completes advances `pc` by its length in words, the length of its encoding; one that faults
leaves `pc` at its command word. -/
def Obligations.CommandPointerAdvancesByLength : Prop :=
  ∀ (i : Instr) (s t : State), exec i s = .next t →
    (t.fault = none → t.pc = s.pc + (encode i).length) ∧ (t.fault ≠ none → t.pc = s.pc)

/-! ## Faults -/

/-- R32, R174, R175: once FAULT is set no agent has a step, so it is never cleared. -/
def Obligations.FaultedStateHasNoStep : Prop :=
  ∀ (s : State) (code : FaultCode), s.fault = some code →
    (∀ i, exec i s = .fault (.halted code)) ∧ (∀ t, step s ≠ .next t) ∧ s.boundaryEnabled = false ∧ s.timerTurn.fault = some code

/-- R174: taking a fault sets FAULT, keeps every other component, and leaves no agent a step. -/
def Obligations.TakingAFaultKeepsEverythingElse : Prop :=
  ∀ (i : Instr) (s t : State) (code : FaultCode), exec i s = .next t → t.fault = some code →
    t = { s with fault := some code } ∧ (∀ u, step t ≠ .next u) ∧ t.boundaryEnabled = false

/-- R172: every command answers a next state whose FAULT is the first check of its row that fails, or `none`. -/
def Obligations.FirstFailingCheckIsReported : Prop :=
  ∀ (i : Instr) (s : State), paramsAccepted s.cfg = true → s.fault = none →
    ∃ t, exec i s = .next t ∧ t.fault =
      if i.wellFormed = false then some .illegalEncoding
      else match i with
        | .init _ _ | .setper _ | .pinact _ | .chact _ | .feat _ => none
        | .setmatch p _ =>
          if s.inited = false then some .notInitialised else if p.chan = 0 then some .channelZero else none
        | .attach p _ =>
          if s.inited = false then some .notInitialised
          else if p.chan = 0 then some .channelZero
          else if (s.cfg.featureTable.toList.getD p.port.toNat 0).slt 0 then some .noPwmFeature
          else none
        | .detach p | .mraddr p | .mrwr p _ | .bitidx p | .markact p | .markinact p =>
          if p.chan = 0 then some .channelZero else none
        | .mrrd p =>
          if p.chan = 0 then some .channelZero
          else if s.mr.toList.getD p.chan.toNat none = none then some .readUnwritten
          else none

/-! ## Queries -/

/-- R101: FEAT. -/
def Obligations.FeatReportsThePortsCode : Prop :=
  (∀ pin, encode (.feat pin) = [pinWord 0x8 pin])
    ∧ ∀ s : State, s.fault = none →
      (∀ (port : Fin 5) (n : Fin 32) (chan : Fin 7), exec (.feat (pinOf port n chan)) s
        = .next { s with result := some (s.cfg.featureTable[port].signExtend 32), pc := s.pc + 1 })
      ∧ (∀ pin : Pin, pin.wellFormed = false → exec (.feat pin) s = .next { s with fault := some .illegalEncoding })

/-- R111, R110: MRADDR, with the gap between registers 3 and 4. -/
def Obligations.MraddrReportsTheAddress : Prop :=
  (∀ pin, encode (.mraddr pin) = [pinWord 0x9 pin])
    ∧ (∀ p : Params, mrAddr p 4 - mrAddr p 3 = p.highOffset - p.lowOffset + 4)
    ∧ ∀ s : State, s.fault = none →
      (∀ (port : Fin 5) (n : Fin 32) (c : Channel), exec (.mraddr (pinOf port n c.succ)) s
        = .next { s with
            result := some (s.cfg.base + (if 3 < c.val + 1 then s.cfg.highOffset else s.cfg.lowOffset)
              + 4 * BitVec.ofNat 32 (c.val + 1))
            pc := s.pc + 1 })
      ∧ (∀ (port : Fin 5) (n : Fin 32),
          exec (.mraddr (pinOf port n 0)) s = .next { s with fault := some .channelZero })
      ∧ (∀ pin : Pin, pin.wellFormed = false → exec (.mraddr pin) s = .next { s with fault := some .illegalEncoding })

/-- R112: MRRD gives a candidate of the read source. Which candidate under EITHER is a free value (log entry 4, a DESIGN
CHOICE), counted by the model's `draws`. -/
def Obligations.MrrdReadsACandidate : Prop :=
  ∀ s : State, paramsAccepted s.cfg = true → s.fault = none → ∀ (port : Fin 5) (n : Fin 32) (c : Channel),
    (∀ m, s.mr[c.succ] = some m →
      ∃ v, (match s.cfg.mrReadSource with
            | .staged => v = m
            | .applied => v = s.applied[c.succ].getD m
            | .either => v = m ∨ s.applied[c.succ] = some v)
        ∧ exec (.mrrd (pinOf port n c.succ)) s
          = .next { s with result := some v, pc := s.pc + 1, draws := s.draws + 1 })
    ∧ (s.mr[c.succ] = none →
        exec (.mrrd (pinOf port n c.succ)) s = .next { s with fault := some .readUnwritten })
    ∧ exec (.mrrd (pinOf port n 0)) s = .next { s with fault := some .channelZero }

/-- R124: BITIDX. -/
def Obligations.BitidxReportsTheBitIndex : Prop :=
  (∀ pin, encode (.bitidx pin) = [pinWord 0xA pin])
    ∧ (∀ (port : Fin 5) (c : Channel), port.val * 6 + c.val ≤ 29)
    ∧ ∀ s : State, s.fault = none →
      (∀ (port : Fin 5) (n : Fin 32) (c : Channel), exec (.bitidx (pinOf port n c.succ)) s
        = .next { s with result := some (BitVec.ofNat 32 (port.val * 6 + c.val)), pc := s.pc + 1 })
      ∧ (∀ (port : Fin 5) (n : Fin 32),
          exec (.bitidx (pinOf port n 0)) s = .next { s with fault := some .channelZero })
      ∧ (∀ pin : Pin, pin.wellFormed = false → exec (.bitidx pin) s = .next { s with fault := some .illegalEncoding })
      ∧ exec (.bitidx ⟨1, 21, 3⟩) s = .next { s with result := some 8, pc := s.pc + 1 }

/-- R125, R122: PINACT answers for this exact pin, and 0 on channel 0. -/
def Obligations.PinactReportsThisPin : Prop :=
  (∀ pin, encode (.pinact pin) = [pinWord 0x6 pin])
    ∧ (∀ (port : Fin 5) (c : Channel), State.reset.active.getLsbD (port.val * 6 + c.val) = false)
    ∧ ∀ s : State, s.fault = none →
      (∀ (port : Fin 5) (n : Fin 32) (c : Channel), exec (.pinact (pinOf port n c.succ)) s
        = .next { s with
            result := some (if s.active.getLsbD (port.val * 6 + c.val) then 1 else 0)
            pc := s.pc + 1 })
      ∧ (∀ (port : Fin 5) (n : Fin 32),
          exec (.pinact (pinOf port n 0)) s = .next { s with result := some 0, pc := s.pc + 1 })
      ∧ (∀ pin : Pin, pin.wellFormed = false → exec (.pinact pin) s = .next { s with fault := some .illegalEncoding })

/-- R126, R123: CHACT answers whether the pin of any port with this channel is active, and 0 on channel 0. -/
def Obligations.ChactReportsAnyOwner : Prop :=
  (∀ pin, encode (.chact pin) = [pinWord 0x7 pin])
    ∧ ∀ s : State, s.fault = none →
      (∀ (port : Fin 5) (n : Fin 32) (c : Channel), exec (.chact (pinOf port n c.succ)) s
        = .next { s with
            result := some (if ∃ p : Fin 5, s.active.getLsbD (p.val * 6 + c.val) = true then 1 else 0)
            pc := s.pc + 1 })
      ∧ (∀ (port : Fin 5) (n : Fin 32),
          exec (.chact (pinOf port n 0)) s = .next { s with result := some 0, pc := s.pc + 1 })
      ∧ (∀ pin : Pin, pin.wellFormed = false → exec (.chact pin) s = .next { s with fault := some .illegalEncoding })

/-! ## The registry -/

/-- R127: MARKACT sets one registry bit and touches nothing else, and so can break INV1. -/
def Obligations.MarkactSetsOneBit : Prop :=
  (∀ pin, encode (.markact pin) = [pinWord 0xB pin])
    ∧ ∀ s : State, s.fault = none →
      (∀ (port : Fin 5) (n : Fin 32) (c : Channel), exec (.markact (pinOf port n c.succ)) s
        = .next { s with active := s.active ||| (1#32 <<< (port.val * 6 + c.val)), pc := s.pc + 1 })
      ∧ (∀ (port : Fin 5) (n : Fin 32),
          exec (.markact (pinOf port n 0)) s = .next { s with fault := some .channelZero })
      ∧ (∀ pin : Pin, pin.wellFormed = false → exec (.markact pin) s = .next { s with fault := some .illegalEncoding })
      ∧ (∀ (port : Fin 5) (n : Fin 32) (c : Channel) (t : State), s.ena[c] = false →
          exec (.markact (pinOf port n c.succ)) s = .next t → ¬ EnableTracksOwners t)

/-- R128: MARKINACT clears one registry bit and touches nothing else, and so can leave a channel enabled with no owner. -/
def Obligations.MarkinactClearsOneBit : Prop :=
  (∀ pin, encode (.markinact pin) = [pinWord 0xC pin])
    ∧ ∀ s : State, s.fault = none →
      (∀ (port : Fin 5) (n : Fin 32) (c : Channel), exec (.markinact (pinOf port n c.succ)) s
        = .next { s with active := s.active &&& ~~~ (1#32 <<< (port.val * 6 + c.val)), pc := s.pc + 1 })
      ∧ (∀ (port : Fin 5) (n : Fin 32),
          exec (.markinact (pinOf port n 0)) s = .next { s with fault := some .channelZero })
      ∧ (∀ pin : Pin, pin.wellFormed = false → exec (.markinact pin) s = .next { s with fault := some .illegalEncoding })
      ∧ (∀ (port : Fin 5) (n : Fin 32) (c : Channel) (t : State), s.ena[c] = true →
          (∀ p : Fin 5, p ≠ port → s.active.getLsbD (p.val * 6 + c.val) = false) →
          exec (.markinact (pinOf port n c.succ)) s = .next t → ¬ EnableTracksOwners t)

/-- R120: the bit index of a pin with a channel, in 0..29, one per (port, channel), and CHANNEL_ZERO on channel 0 from
every command that needs it. -/
def Obligations.BitIndexOfPortAndChannel : Prop :=
  (∀ (port : Fin 5) (c : Channel), bitIndex port c = port.val * 6 + ((c.val + 1) - 1) ∧ bitIndex port c ≤ 29)
    ∧ bitIndex 0 0 = 0 ∧ bitIndex 4 5 = 29
    ∧ (∀ (p q : Fin 5) (c d : Channel), bitIndex p c = bitIndex q d → p = q ∧ c = d)
    ∧ ∀ (s : State) (port : Fin 5) (n : Fin 32) (value : Word), s.fault = none →
      exec (.bitidx (pinOf port n 0)) s = .next { s with fault := some .channelZero }
      ∧ exec (.markact (pinOf port n 0)) s = .next { s with fault := some .channelZero }
      ∧ exec (.markinact (pinOf port n 0)) s = .next { s with fault := some .channelZero }
      ∧ exec (.detach (pinOf port n 0)) s = .next { s with fault := some .channelZero }
      ∧ (s.inited = true → exec (.attach (pinOf port n 0) value) s = .next { s with fault := some .channelZero })

/-- R122, R123: a pin is active if it has a channel and its own bit is set; its channel is active if it has one and the bit
of any port is set, which depends on neither port nor pin number. -/
def Obligations.ActivityOfPinAndChannel : Prop :=
  ∀ (active : Word) (port : Fin 5) (n : Fin 32),
    (∀ c : Channel,
      (pinActive active ⟨port, n, some c⟩ = true ↔ active.getLsbD (port.val * 6 + c.val) = true)
        ∧ (channelActive active ⟨port, n, some c⟩ = true ↔ active &&& chmask c ≠ 0)
        ∧ (channelActive active ⟨port, n, some c⟩ = true ↔ ∃ p : Fin 5, active.getLsbD (p.val * 6 + c.val) = true))
    ∧ pinActive active ⟨port, n, none⟩ = false ∧ channelActive active ⟨port, n, none⟩ = false
    ∧ ∀ (q : Fin 5) (m : Fin 32) (chan : Option Channel),
        channelActive active ⟨port, n, chan⟩ = channelActive active ⟨q, m, chan⟩

/-- 42_registry.md section 3, laws (a) to (f), which the spec marks as derived from R120 to R123. In (e) the timer takes its
turn between the two commands, as in a run (R58). -/
def Obligations.RegistryLaws : Prop :=
  (∀ (p q : Fin 5) (c d : Channel), bitIndex p c ≤ 29 ∧ (bitIndex p c = bitIndex q d → p = q ∧ c = d))
    ∧ (∀ (active : Word) (port : Fin 5) (n m : Fin 32) (c : Option Channel),
        channelActive active ⟨port, n, c⟩ = true ↔ ∃ p : Fin 5, pinActive active ⟨p, m, c⟩ = true)
    ∧ (∀ q : PhysPin, pinActive 0 q = false ∧ channelActive 0 q = false)
    ∧ (∀ (active : Word) (q : PhysPin), pinActive active q = true → channelActive active q = true)
    ∧ (∀ (s t u : State) (port : Fin 5) (n : Fin 32) (c : Channel), s.active.getLsbD (bitIndex port c) = false →
        exec (.markact (pinOf port n c.succ)) s = .next t →
        exec (.markinact (pinOf port n c.succ)) t.timerTurn = .next u →
        u.active = s.active)
    ∧ (∀ (i : Instr) (s t : State), exec i s = .next t → ∀ k, 30 ≤ k → t.active.getLsbD k = s.active.getLsbD k)

/-- R121: the six channel masks, pairwise disjoint, with union 0x3FFFFFFF. -/
def Obligations.ChannelMaskTable : Prop :=
  (chmask 0 = 0x01041041 ∧ chmask 1 = 0x02082082 ∧ chmask 2 = 0x04104104
      ∧ chmask 3 = 0x08208208 ∧ chmask 4 = 0x10410410 ∧ chmask 5 = 0x20820820)
    ∧ (∀ c d : Channel, c ≠ d → chmask c &&& chmask d = 0)
    ∧ chmask 0 ||| chmask 1 ||| chmask 2 ||| chmask 3 ||| chmask 4 ||| chmask 5 = 0x3FFFFFFF
    ∧ ∀ c : Channel, chmask c = 1#32 <<< c.val ||| 1#32 <<< (6 + c.val) ||| 1#32 <<< (12 + c.val)
        ||| 1#32 <<< (18 + c.val) ||| 1#32 <<< (24 + c.val)

/-- R140: a channel is Active exactly when some port owns it, else Idle; under INV1 that is its enable bit. -/
def Obligations.ChannelStateIsDerived : Prop :=
  ∀ (s : State) (c : Channel),
    (channelState s c = .active ↔ s.active &&& chmask c ≠ 0)
      ∧ (channelState s c = .active ↔ ∃ p : Fin 5, s.active.getLsbD (p.val * 6 + c.val) = true)
      ∧ (channelState s c ≠ .active → channelState s c = .idle)
      ∧ (EnableTracksOwners s → (channelState s c = .active ↔ s.ena[c] = true))

/-! ## The controller and the handle write -/

/-- R113: MRWR stages a value and requests no latch; it waits until a boundary finds the request bit set. -/
def Obligations.MrwrStagesWithoutLatch : Prop :=
  (∀ pin v, encode (.mrwr pin v) = [pinWord 0xE pin, v])
    ∧ ∀ s : State, paramsAccepted s.cfg = true → s.fault = none → ∀ (port : Fin 5) (n : Fin 32) (v : Word),
      (∀ c : Channel, ∃ t, exec (.mrwr (pinOf port n c.succ) v) s = .next t
        ∧ t = { s with mr := s.mr.set c.succ (some v), pc := s.pc + 2 }
        ∧ t.boundary.applied[c.succ] = if s.ler[c.succ] then some v else s.applied[c.succ])
      ∧ exec (.mrwr (pinOf port n 0) v) s = .next { s with fault := some .channelZero }
      ∧ ∀ pin : Pin, pin.wellFormed = false → exec (.mrwr pin v) s = .next { s with fault := some .illegalEncoding }

/-- R142: INIT, for every timing of the boundaries between its three access steps (the list of timer choices that
`QuietFor` and `boundaryAt` read is log entry 3, a DESIGN CHOICE). R197: a request pending on MR[0] before it is taken at
the first boundary, with the old staged value before the write of MR[0] and the new one after it; with none pending
APPLIED[0] is as before. -/
def Obligations.InitProgramsPrescaleAndPeriod : Prop :=
  (∀ a b, encode (.init a b) = [0x00000001, a, b])
    ∧ ∀ (s : State) (prescale period : Word), paramsAccepted s.cfg = true → s.fault = none →
      ∃ t, exec (.init prescale period) s = .next t
        ∧ t = { s with
            pr := some prescale
            mr := s.mr.set 0 (some (period - BitVec.ofNat 32 s.cfg.initPeriodBias.val))
            inited := true
            pc := s.pc + 3
            applied := t.applied, ler := t.ler, timer := t.timer }
        ∧ t.ler[(0 : Fin 7)] = true
        ∧ t.applied[(0 : Fin 7)] =
            (if s.ler[(0 : Fin 7)] = false then s.applied[(0 : Fin 7)]
             else if s.boundaryAt 0 then s.mr[(0 : Fin 7)]
             else if s.boundaryAt 1 then some (period - BitVec.ofNat 32 s.cfg.initPeriodBias.val)
             else s.applied[(0 : Fin 7)])
        ∧ (∀ j : Fin 7, j ≠ 0 → KeptOrAdopted s t j)
        ∧ (QuietFor 2 s → t.applied = s.applied ∧ t.ler = s.ler.set 0 true)

/-- R143: SETPER, for every timing of the boundary between its two access steps (log entry 3, a DESIGN CHOICE). Such a
boundary adopts the new period exactly if a request on MR[0] was pending before. -/
def Obligations.SetperWritesPeriodLessOne : Prop :=
  (∀ a, encode (.setper a) = [0x00000002, a])
    ∧ ∀ (s : State) (period : Word), paramsAccepted s.cfg = true → s.fault = none →
      ∃ t, exec (.setper period) s = .next t
        ∧ t = { s with
            mr := s.mr.set 0 (some (period - 1))
            pc := s.pc + 2
            applied := t.applied, ler := t.ler, timer := t.timer }
        ∧ t.ler[(0 : Fin 7)] = true
        ∧ t.applied[(0 : Fin 7)] =
            (if s.ler[(0 : Fin 7)] && s.boundaryAt 0 then some (period - 1) else s.applied[(0 : Fin 7)])
        ∧ (∀ j : Fin 7, j ≠ 0 → KeptOrAdopted s t j)
        ∧ (QuietFor 1 s → t.applied = s.applied ∧ t.ler = s.ler.set 0 true)

/-- R144: SETMATCH, for every timing of the boundary between its two access steps (log entry 3, a DESIGN CHOICE). R197:
such a boundary adopts the new value exactly if a request on the channel was pending before. -/
def Obligations.SetmatchStagesAndRequestsLatch : Prop :=
  (∀ pin v, encode (.setmatch pin v) = [pinWord 0x4 pin, v])
    ∧ ∀ (s : State) (port : Fin 5) (n : Fin 32) (value : Word), paramsAccepted s.cfg = true → s.fault = none →
      (∀ c : Channel, s.inited = true → ∃ t, exec (.setmatch (pinOf port n c.succ) value) s = .next t
        ∧ t = { s with
            mr := s.mr.set c.succ (some value)
            pc := s.pc + 2
            applied := t.applied, ler := t.ler, timer := t.timer }
        ∧ t.ler[c.succ] = true
        ∧ t.applied[c.succ] = (if s.ler[c.succ] && s.boundaryAt 0 then some value else s.applied[c.succ])
        ∧ (∀ j : Fin 7, j ≠ c.succ → KeptOrAdopted s t j)
        ∧ (QuietFor 1 s → t.applied = s.applied ∧ t.ler = s.ler.set c.succ true))
      ∧ (∀ chan : Fin 7, s.inited = false →
          exec (.setmatch (pinOf port n chan) value) s = .next { s with fault := some .notInitialised })
      ∧ (s.inited = true → exec (.setmatch (pinOf port n 0) value) s = .next { s with fault := some .channelZero })
      ∧ ∀ pin : Pin, pin.wellFormed = false →
          exec (.setmatch pin value) s = .next { s with fault := some .illegalEncoding }

/-- R145: ATTACH, for every timing of the boundaries between its access steps (log entry 3, a DESIGN CHOICE), and its faults
in the order of R173. R197: a boundary between s1 and s2 adopts the new value exactly if a request on the channel was
pending before, any later one adopts it and takes the request. The point before s4 is there only on an Idle channel
(log entry 18, DEDUCED). -/
def Obligations.AttachTakesOwnershipAndSelectsThePin : Prop :=
  (∀ pin v, encode (.attach pin v) = [pinWord 0x3 pin, v])
    ∧ ∀ (s : State) (port : Fin 5) (n : Fin 32) (value : Word), paramsAccepted s.cfg = true → s.fault = none →
      (∀ c : Channel, s.inited = true → s.cfg.featureTable[port].msb = false →
        ∃ t, exec (.attach (pinOf port n c.succ) value) s = .next t
        ∧ t = { s with
            mr := s.mr.set c.succ (some value)
            active := s.active ||| (1#32 <<< (port.val * 6 + c.val))
            ena := if s.active &&& chmask c ≠ 0 then s.ena else s.ena.set c true
            pinmux := s.pinmux.set port (s.pinmux[port].set n (some s.cfg.featureTable[port]))
            pc := s.pc + 2
            applied := t.applied, ler := t.ler, timer := t.timer }
        ∧ (let later := s.boundaryAt 1 || s.boundaryAt 2 || (s.active &&& chmask c == 0 && s.boundaryAt 3)
           t.ler[c.succ] = !later
             ∧ t.applied[c.succ] =
                (if (s.ler[c.succ] && s.boundaryAt 0) || later then some value else s.applied[c.succ]))
        ∧ (∀ j : Fin 7, j ≠ c.succ → KeptOrAdopted s t j)
        ∧ (QuietFor 4 s → t.applied = s.applied ∧ t.ler = s.ler.set c.succ true))
      ∧ (∀ chan : Fin 7, s.inited = false →
          exec (.attach (pinOf port n chan) value) s = .next { s with fault := some .notInitialised })
      ∧ (s.inited = true → exec (.attach (pinOf port n 0) value) s = .next { s with fault := some .channelZero })
      ∧ (∀ c : Channel, s.inited = true → s.cfg.featureTable[port].msb = true →
          exec (.attach (pinOf port n c.succ) value) s = .next { s with fault := some .noPwmFeature })
      ∧ ∀ pin : Pin, pin.wellFormed = false →
          exec (.attach pin value) s = .next { s with fault := some .illegalEncoding }

/-- R146: DETACH, for every timing of the boundary between its two access steps (log entry 3, a DESIGN CHOICE). -/
def Obligations.DetachReleasesOwnership : Prop :=
  (∀ pin, encode (.detach pin) = [pinWord 0x5 pin])
    ∧ ∀ (s : State) (port : Fin 5) (n : Fin 32), s.fault = none →
      (∀ c : Channel,
        let after := s.active &&& ~~~ (1#32 <<< (port.val * 6 + c.val))
        ∃ t, exec (.detach (pinOf port n c.succ)) s = .next t
        ∧ t = { s with
            active := after
            ena := if after &&& chmask c ≠ 0 then s.ena else s.ena.set c false
            pc := s.pc + 1
            applied := t.applied, ler := t.ler, timer := t.timer }
        ∧ (∀ j : Fin 7, KeptOrAdopted s t j)
        ∧ (QuietFor 1 s ∨ after &&& chmask c ≠ 0 → t.applied = s.applied ∧ t.ler = s.ler))
      ∧ exec (.detach (pinOf port n 0)) s = .next { s with fault := some .channelZero }
      ∧ ∀ pin : Pin, pin.wellFormed = false → exec (.detach pin) s = .next { s with fault := some .illegalEncoding }

/-- R149, R145: after ATTACH in a state where INV1 holds, the pin drives its output and is active. -/
def Obligations.AttachedPinIsDriving : Prop :=
  ∀ (s : State) (port : Fin 5) (n : Fin 32) (c : Channel) (value : Word),
    paramsAccepted s.cfg = true → s.fault = none → s.inited = true → s.cfg.featureTable[port].msb = false →
    EnableTracksOwners s →
    ∃ t, exec (.attach (pinOf port n c.succ) value) s = .next t
      ∧ driving t ⟨port, n, some c⟩ = true ∧ pinActive t.active ⟨port, n, some c⟩ = true

/-- R204: a command lets the timer have one turn less than it has access steps; the turn before its first access step is
the step's (`StepRunsTheDecodedCommand`), and a faulting command has none. -/
def Obligations.AccessStepCounts : Prop :=
  (∀ (i : Instr) (s t : State), exec i s = .next t → t.fault ≠ none → t.timer = s.timer)
    ∧ (∀ (i : Instr) (s t : State), exec i s = .next t → t.fault = none →
        match i with
        | .init _ _ => t.timer = s.timer.drop (3 - 1)
        | .setper _ | .setmatch _ _ => t.timer = s.timer.drop (2 - 1)
        | .attach p _ => ∀ c : Channel, p.chan.toNat = c.val + 1 →
            t.timer = s.timer.drop (if s.active &&& chmask c ≠ 0 then 4 - 1 else 5 - 1)
        | .detach p => ∀ c : Channel, p.chan.toNat = c.val + 1 →
            t.timer = s.timer.drop (if t.active &&& chmask c ≠ 0 then 1 - 1 else 2 - 1)
        | .mrwr _ _ | .mrrd _ | .markact _ | .markinact _ | .pinact _ | .chact _ | .feat _ | .mraddr _ | .bitidx _ =>
            t.timer = s.timer.drop (1 - 1))

/-- R195, R197: the value INIT, SETPER, SETMATCH or ATTACH wrote is applied by the first boundary after the command, if
not before. -/
def Obligations.NextBoundaryAppliesTheWrittenValue : Prop :=
  ∀ (i : Instr) (s t : State), paramsAccepted s.cfg = true → exec i s = .next t → t.fault = none →
    match i with
    | .init _ period => t.boundary.applied[(0 : Fin 7)] = some (period - BitVec.ofNat 32 s.cfg.initPeriodBias.val)
    | .setper period => t.boundary.applied[(0 : Fin 7)] = some (period - 1)
    | .setmatch p v | .attach p v =>
        ∀ c : Channel, p.chan.toNat = c.val + 1 → t.boundary.applied[c.succ] = some v
    | _ => t.boundary.ler = Vector.replicate 7 false

/-- R147: of two SETMATCH or ATTACH commands on one channel, from whatever ports, with the timer's turn between them (R58),
the later value stays staged and is the one a boundary applies. -/
def Obligations.LastWriteWins : Prop :=
  ∀ (s t u : State) (p q : Fin 5) (n m : Fin 32) (c : Channel) (v w : Word) (i j : Instr),
    paramsAccepted s.cfg = true →
    (i = .setmatch (pinOf p n c.succ) v ∨ i = .attach (pinOf p n c.succ) v) →
    (j = .setmatch (pinOf q m c.succ) w ∨ j = .attach (pinOf q m c.succ) w) →
    exec i s = .next t → t.fault = none → exec j t.timerTurn = .next u → u.fault = none →
    u.mr[c.succ] = some w ∧ u.boundary.applied[c.succ] = some w

/-- R22, R23, R25, R28 to R31: which commands can change which register. -/
def Obligations.WritersOfEachRegister : Prop :=
  ∀ (i : Instr) (s t : State), paramsAccepted s.cfg = true → exec i s = .next t →
    (t.result ≠ s.result → match i with
      | .bitidx _ | .pinact _ | .chact _ | .feat _ | .mraddr _ | .mrrd _ => True
      | _ => False)
    ∧ (t.active ≠ s.active → match i with
      | .markact _ | .markinact _ | .attach _ _ | .detach _ => True
      | _ => False)
    ∧ (t.ena ≠ s.ena → match i with
      | .attach _ _ | .detach _ => True
      | _ => False)
    ∧ (t.pinmux ≠ s.pinmux → match i with
      | .attach _ _ => True
      | _ => False)
    ∧ (t.pr ≠ s.pr ∨ t.inited ≠ s.inited → match i with
      | .init _ _ => True
      | _ => False)
    ∧ (t.mr[(0 : Fin 7)] ≠ s.mr[(0 : Fin 7)] → match i with
      | .init _ _ | .setper _ => True
      | _ => False)

/-- 70_reset_and_hazards.md section 3 (which the spec marks as derived): direct use of the registry. After MARKACT on an
Idle channel, ATTACH of another pin of the channel leaves it owned and disabled; after MARKINACT of the last owner the
channel stays enabled, and a later DETACH clears it. The timer takes its turn between the two commands (R58). -/
def Obligations.DirectRegistryUseHazards : Prop :=
  (∀ (s t u : State) (p q : Fin 5) (n m : Fin 32) (c : Channel) (v : Word), p ≠ q →
      s.active &&& chmask c = 0 → s.ena[c] = false →
      exec (.markact (pinOf p n c.succ)) s = .next t →
      exec (.attach (pinOf q m c.succ) v) t.timerTurn = .next u → u.fault = none →
      channelOwned t.active c = true ∧ t.ena[c] = false ∧ channelOwned u.active c = true ∧ u.ena[c] = false)
    ∧ (∀ (s t u : State) (p q : Fin 5) (n m : Fin 32) (c : Channel), s.ena[c] = true →
      (∀ r : Fin 5, r ≠ p → s.active.getLsbD (r.val * 6 + c.val) = false) →
      exec (.markinact (pinOf p n c.succ)) s = .next t → exec (.detach (pinOf q m c.succ)) t.timerTurn = .next u →
      channelOwned t.active c = false ∧ t.ena[c] = true ∧ u.ena[c] = false)

/-- R200: a detached pin goes on driving while another port owns its channel. -/
def Obligations.DetachedPinKeepsDriving : Prop :=
  ∀ (s : State) (port other : Fin 5) (n : Fin 32) (c : Channel), s.fault = none →
    driving s ⟨port, n, some c⟩ = true → other ≠ port → s.active.getLsbD (other.val * 6 + c.val) = true →
    ∃ t, exec (.detach (pinOf port n c.succ)) s = .next t
      ∧ driving t ⟨port, n, some c⟩ = true ∧ pinActive t.active ⟨port, n, some c⟩ = false
      ∧ t.pinmux = s.pinmux ∧ t.mr = s.mr ∧ t.applied = s.applied

/-! ## The timer -/

/-- R160: BOUNDARY, when it is enabled, and the timer's turn that takes it or not. -/
def Obligations.BoundaryAdoptsPendingValues : Prop :=
  ∀ s : State,
    (s.boundaryEnabled = true ↔ s.cfg.timerRunning = true ∧ s.fault = none)
    ∧ (∀ i : Fin 7, s.boundary.applied[i] = if s.ler[i] then s.mr[i] else s.applied[i])
    ∧ (∀ i : Fin 7, s.boundary.ler[i] = false)
    ∧ s.boundary = { s with applied := s.boundary.applied, ler := s.boundary.ler }
    ∧ ((∀ i : Fin 7, s.ler[i] = false) → s.boundary = s)
    ∧ s.timerTurn = if s.boundaryEnabled && s.timer.headD true
        then { s.boundary with timer := s.timer.tail } else { s with timer := s.timer.tail }

/-- R26: an applied value changes only by a boundary that finds its request set: in a step, one pending before it, or the one
ATTACH made for its channel; it then is the value staged before or after. -/
def Obligations.AppliedChangesOnlyByRequest : Prop :=
  ∀ (s t : State) (i : Fin 7), step s = .next t → t.applied[i] ≠ s.applied[i] →
    s.cfg.timerRunning = true
      ∧ (s.ler[i] = true ∨ ∃ p v, s.callerAction = .issue (.attach p v) ∧ p.chan.toNat = i.val)
      ∧ (t.applied[i] = s.mr[i] ∨ t.applied[i] = t.mr[i])

/-- R191: the end states of a completed run are the state at completion and, where the timer runs, the one a boundary
gives, which is settled. -/
def Obligations.EndStatesOfACompletedRun : Prop :=
  ∀ s t : State, (IsEndState s t ↔ Completed s ∧ (t = s ∨ (s.cfg.timerRunning = true ∧ t = s.boundary)))
    ∧ Settled s.boundary

/-- R161: when the timer runs, no pending request of a completed run stays set for ever: within one step more than the
timer has choices listed, all are consumed. That a boundary comes once the list is exhausted is the model's form of weak
fairness (log entry 3, a DESIGN CHOICE). -/
def Obligations.PendingLatchesAreConsumed : Prop :=
  ∀ s : State, s.refusal? = none → Completed s → s.resultReads.head? ≠ some s.pc → s.cfg.timerRunning = true →
    ∃ t : State, Host.Core.run Sys2Proof.core (s.timer.length + 1) s = .next t
      ∧ Settled t ∧ Completed t ∧ ∀ i : Fin 7, t.mr[i] = s.mr[i]

/-- R161: when the timer does not run, no step applies a value and pending requests stay pending. -/
def Obligations.StoppedTimerAppliesNothing : Prop :=
  ∀ s t : State, s.cfg.timerRunning = false → step s = .next t →
    t.applied = s.applied ∧ ∀ i : Fin 7, s.ler[i] = true → t.ler[i] = true

/-! ## The register space -/

/-- R52: `reg_of` gives each register back from its address and UNMAPPED from every other, and no command accesses an
address without a word register. -/
def Obligations.AddressResolution : Prop :=
  ∀ p : Params, paramsAccepted p = true →
    (∀ i : Fin 7, regOf p (mrAddr p i) = .mr i)
    ∧ regOf p (prAddr p) = .pr ∧ regOf p (pcrAddr p) = .pcr ∧ regOf p (lerAddr p) = .ler
    ∧ (∀ a : Word, (∀ i : Fin 7, a ≠ mrAddr p i) → a ≠ prAddr p → a ≠ pcrAddr p → a ≠ lerAddr p →
        regOf p a = .unmapped)
    ∧ ∀ (s : State) (i : Instr) (a : Word), s.cfg = p → exec i s ≠ .fault (.noWordRegister a)

/-- R51, R54, R110: no register address wraps, and each is a multiple of 4. -/
def Obligations.RegisterAddressesAlignedAndUnwrapped : Prop :=
  ∀ p : Params, paramsAccepted p = true →
    (∀ i : Fin 7, (mrAddr p i).toNat = p.base.toNat + (if 3 < i.val then p.highOffset else p.lowOffset).toNat + 4 * i.val
      ∧ (mrAddr p i).toNat % 4 = 0)
    ∧ (prAddr p).toNat = p.base.toNat + p.prOffset.toNat ∧ (prAddr p).toNat % 4 = 0
    ∧ (pcrAddr p).toNat = p.base.toNat + p.pcrOffset.toNat ∧ (pcrAddr p).toNat % 4 = 0
    ∧ (lerAddr p).toNat = p.base.toNat + p.lerOffset.toNat ∧ (lerAddr p).toNat % 4 = 0

/-- R55, R28, R141: a set or clear of an enable bit, and a latch request, change exactly one bit of the register's word. -/
def Obligations.SingleBitAccessesChangeOneBit : Prop :=
  ∀ s : State, paramsAccepted s.cfg = true →
    (∀ c : Channel, (s.setEna c true).pcrWord = s.pcrWord ||| (1#32 <<< s.cfg.enaBit[c].val)
      ∧ (s.setEna c false).pcrWord = s.pcrWord &&& ~~~ (1#32 <<< s.cfg.enaBit[c].val)
      ∧ s.pcrWord.getLsbD s.cfg.enaBit[c].val = s.ena[c])
    ∧ ∀ i : Fin 7, (s.requestLatch i).lerWord = s.lerWord ||| (1#32 <<< s.cfg.lerBit[i].val)
      ∧ s.lerWord.getLsbD s.cfg.lerBit[i].val = s.ler[i]

/-- R56, R58: the bytes of the peripheral space a command leaves alone: all but those of the registers it stores to, at
the addresses of R110 and R51, and of the latch-enable register where a boundary may come between its access steps. -/
def Obligations.CommandsStoreOnlyTheirRegisters : Prop :=
  ∀ (i : Instr) (s t : State) (a : Word), paramsAccepted s.cfg = true → exec i s = .next t →
    let word := a &&& ~~~ 3#32
    (match i with
      | .init _ _ => word ≠ prAddr s.cfg ∧ word ≠ mrAddr s.cfg 0 ∧ word ≠ lerAddr s.cfg
      | .setper _ => word ≠ mrAddr s.cfg 0 ∧ word ≠ lerAddr s.cfg
      | .setmatch p _ => (∀ c : Channel, p.chan.toNat = c.val + 1 → word ≠ mrAddr s.cfg c.succ) ∧ word ≠ lerAddr s.cfg
      | .attach p _ => (∀ c : Channel, p.chan.toNat = c.val + 1 → word ≠ mrAddr s.cfg c.succ) ∧ word ≠ lerAddr s.cfg
          ∧ word ≠ pcrAddr s.cfg
      | .detach _ => word ≠ lerAddr s.cfg ∧ word ≠ pcrAddr s.cfg
      | .mrwr p _ => ∀ c : Channel, p.chan.toNat = c.val + 1 → word ≠ mrAddr s.cfg c.succ
      | _ => True) →
    t.byteAt a = s.byteAt a

/-- R53, R24: the four bytes a handle write stores, little-endian from the match register's address. -/
def Obligations.HandleWriteStoresLittleEndian : Prop :=
  ∀ (s t : State) (port : Fin 5) (n : Fin 32) (c : Channel) (v : Word), paramsAccepted s.cfg = true → s.fault = none →
    exec (.mrwr (pinOf port n c.succ) v) s = .next t →
    ∀ k < 4, t.byteAt (mrAddr s.cfg c.succ + BitVec.ofNat 32 k) = some (some (v.extractLsb' (8 * k) 8))

/-! ## Invariants and reset -/

/-- R190: the reset state. `PCR_OTHER`, which the rule leaves unspecified, and the model's own fields are not named. -/
def Obligations.ResetStateAsSpecified : Prop :=
  State.reset.pc = 0 ∧ State.reset.result = none ∧ State.reset.active = 0
    ∧ (∀ i : Fin 7, State.reset.mr[i] = none ∧ State.reset.applied[i] = none ∧ State.reset.ler[i] = false)
    ∧ (∀ c : Channel, State.reset.ena[c] = false)
    ∧ (∀ (port : Fin 5) (n : Fin 32), State.reset.pinmux[port][n] = none)
    ∧ State.reset.pr = none ∧ State.reset.inited = false ∧ State.reset.fault = none

/-- INV1 and INV2 hold at reset (which the spec marks as derived from R190), and so do the latch invariants and the bound
on `pc`. -/
def Obligations.ResetMeetsTheInvariants : Prop :=
  EnableTracksOwners State.reset ∧ TopBitsClear State.reset
    ∧ LatchedIsStaged State.reset ∧ AppliedIsStaged State.reset ∧ PcInProgram State.reset

/-- 43_controller.md section 3 (which the spec marks as derived): INV1 survives every command but MARKACT and MARKINACT;
so, attaching two pins of one channel on different ports keeps its enable bit set until both are detached (and no third
owner is left), with the timer's turn between any two of the four commands (R58). -/
def Obligations.CommandsKeepEnableTracksOwners : Prop :=
  (∀ (i : Instr) (s t : State), (∀ p, i ≠ .markact p ∧ i ≠ .markinact p) → EnableTracksOwners s →
      exec i s = .next t → EnableTracksOwners t)
    ∧ ∀ (s : State) (p q : Fin 5) (n m : Fin 32) (c : Channel) (v w : Word),
      paramsAccepted s.cfg = true → s.fault = none → s.inited = true → EnableTracksOwners s → p ≠ q →
      s.cfg.featureTable[p].msb = false → s.cfg.featureTable[q].msb = false →
      ∃ t1 t2 t3 t4,
        exec (.attach (pinOf p n c.succ) v) s = .next t1 ∧ exec (.attach (pinOf q m c.succ) w) t1.timerTurn = .next t2
        ∧ exec (.detach (pinOf p n c.succ)) t2.timerTurn = .next t3
        ∧ exec (.detach (pinOf q m c.succ)) t3.timerTurn = .next t4
        ∧ t1.ena[c] = true ∧ t2.ena[c] = true ∧ t3.ena[c] = true
        ∧ (t4.ena[c] = true ↔ ∃ r : Fin 5, r ≠ p ∧ r ≠ q ∧ s.active.getLsbD (r.val * 6 + c.val) = true)

/-- R35, R148: INV1 survives every step at which the caller does not issue MARKACT or MARKINACT. -/
def Obligations.StepsKeepEnableTracksOwners : Prop :=
  ∀ s t : State, EnableTracksOwners s →
    (∀ p, s.callerAction ≠ .issue (.markact p) ∧ s.callerAction ≠ .issue (.markinact p)) →
    step s = .next t → EnableTracksOwners t

/-- R36, R112, R160, R21: every step keeps INV2, that a latched and an applied register has a staged value, and that `pc`
does not pass the end of the command list. -/
def Obligations.StepsKeepTheMachineInvariant : Prop :=
  ∀ s t : State, TopBitsClear s → LatchedIsStaged s → AppliedIsStaged s → PcInProgram s → step s = .next t →
    TopBitsClear t ∧ LatchedIsStaged t ∧ AppliedIsStaged t ∧ PcInProgram t
end

