-- ==== Sys2Proof/Laws/Operands.lean ====
section
/-!
SUPPORT. What an operand resolves to: the pin triple (30_encoding.md R72), the registry's bits and masks
(42_registry.md R120, R121, R123).
-/

namespace Sys2Proof.Machine

open Sys2Proof

/-- A legal triple with a channel in 1..6 resolves to itself. -/
@[simp] theorem resolvePin_pinOf_succ (port : Fin 5) (n : Fin 32) (c : Channel) :
    resolvePin (pinOf port n c.succ) = some { port := port, pinno := n, channel := some c } := by
  have hp : port.val % 8 = port.val := Nat.mod_eq_of_lt (by omega)
  have hc : (c.val + 1) % 8 = c.val + 1 := Nat.mod_eq_of_lt (by omega)
  have h1 : c.val + 1 ≤ 6 := by omega
  have h2 : c.val + 1 < 7 := by omega
  simp [resolvePin, pinOf, channelOf, hp, hc, h1, h2]

/-- A legal triple with channel 0 resolves to a pin without a channel. -/
@[simp] theorem resolvePin_pinOf_zero (port : Fin 5) (n : Fin 32) :
    resolvePin (pinOf port n 0) = some { port := port, pinno := n, channel := none } := by
  have hp : port.val % 8 = port.val := Nat.mod_eq_of_lt (by omega)
  simp [resolvePin, pinOf, channelOf, hp]

/-- A pin outside the domain does not resolve, and only such a pin. -/
theorem resolvePin_eq_none (p : Pin) : resolvePin p = none ↔ p.wellFormed = false := by
  unfold resolvePin Pin.wellFormed
  split
  · rename_i h
    simp only [reduceCtorEq, false_iff, Bool.and_eq_false_iff, decide_eq_false_iff_not, not_or, not_not]
    omega
  · rename_i h
    simp only [true_iff, Bool.and_eq_false_iff, decide_eq_false_iff_not]
    omega

theorem bitIndex_lt (port : Fin 5) (c : Channel) : bitIndex port c < 30 := by
  unfold bitIndex; omega

theorem bitIndex_injective {p q : Fin 5} {c d : Channel} (h : bitIndex p c = bitIndex q d) : p = q ∧ c = d := by
  unfold bitIndex at h
  exact ⟨Fin.ext (by omega), Fin.ext (by omega)⟩

/-- Bit j of `1 << k`. -/
theorem getLsbD_bit (k j : Nat) (hk : k < 32) : (bit k).getLsbD j = decide (j = k) := by
  unfold bit
  rw [BitVec.getLsbD_shiftLeft, BitVec.getLsbD_one]
  by_cases h : j = k
  · subst h; simp [hk]
  · simp only [h, decide_false, Bool.and_eq_false_iff, decide_eq_false_iff_not, Bool.not_eq_false']
    simp only [decide_eq_true_eq]
    omega

/-- A channel has an owner exactly when some port's pin of that channel owns it (R123, R129(b)). -/
theorem channelOwned_iff (active : Word) (c : Channel) :
    channelOwned active c = true ↔ ∃ port : Fin 5, ownsChannel active port c = true := by
  have hmask : ∀ j < 32, (chmask c).getLsbD j = decide (∃ port : Fin 5, j = bitIndex port c) := by
    revert c; decide
  constructor
  · intro h
    by_contra hn
    push Not at hn
    have : active &&& chmask c = 0 := by
      apply BitVec.eq_of_getLsbD_eq
      intro j hj
      rw [BitVec.getLsbD_and, hmask j hj]
      by_cases hx : ∃ port : Fin 5, j = bitIndex port c
      · obtain ⟨port, rfl⟩ := hx
        have := hn port
        simp only [ownsChannel, ne_eq, Bool.not_eq_true] at this
        simp [this]
      · simp [hx]
    simp [channelOwned, this] at h
  · rintro ⟨port, h⟩
    by_contra hn
    have h0 : active &&& chmask c = 0 := by simpa [channelOwned] using hn
    have hb := congrArg (fun w : Word => w.getLsbD (bitIndex port c)) h0
    have hlt : bitIndex port c < 32 := by have := bitIndex_lt port c; omega
    simp only [BitVec.getLsbD_and, hmask _ hlt] at hb
    simp only [ownsChannel] at h
    simp only [h, Bool.true_and] at hb
    simp at hb
    exact hb port rfl

end Sys2Proof.Machine
end

