-- ==== Sys2Proof/Laws/Parameters.lean ====
section
/-!
SUPPORT. What an accepted parameter set (00_scope.md R8) gives the register map: distinct addresses that resolve back to
their register (20_memory.md R52), and distinct bit positions.
-/

namespace Sys2Proof.Machine

open Sys2Proof

variable {p : Params}

theorem mem_regIndices (i : Fin 7) : i ∈ regIndices := by
  revert i; decide

theorem conditions_of_accepted (h : paramsAccepted p = true) : ParamConditions p := of_decide_eq_true h

theorem regAddrs_nodup (h : paramsAccepted p = true) : (regAddrs p).Nodup := (conditions_of_accepted h).2.1

/-- Distinct register indices have distinct addresses. -/
theorem mrAddr_injective (h : paramsAccepted p = true) {i j : Fin 7} (hij : mrAddr p i = mrAddr p j) : i = j := by
  have hn : (regIndices.map (mrAddr p)).Nodup := (List.nodup_append.mp (regAddrs_nodup h)).1
  exact List.inj_on_of_nodup_map hn (mem_regIndices i) (mem_regIndices j) hij

/-- An address of a match register resolves to that register. -/
theorem regOf_mrAddr (h : paramsAccepted p = true) (i : Fin 7) : regOf p (mrAddr p i) = .mr i := by
  have hf : regIndices.find? (fun j => mrAddr p i == mrAddr p j) = some i := by
    cases hk : regIndices.find? (fun j => mrAddr p i == mrAddr p j) with
    | none => simpa using List.find?_eq_none.mp hk i (mem_regIndices i)
    | some j =>
      have := List.find?_some hk
      have e : i = j := mrAddr_injective h (by simpa using this)
      exact congrArg some e.symm
  simp [regOf, hf]

theorem mem_fixed_ne_mrAddr (h : paramsAccepted p = true) {a : Word} (ha : a ∈ [prAddr p, pcrAddr p, lerAddr p]) (i : Fin 7) :
    a ≠ mrAddr p i := by
  have hd := (List.nodup_append.mp (regAddrs_nodup h)).2.2
  exact fun e => hd (mrAddr p i) (List.mem_map_of_mem (mem_regIndices i)) a ha e.symm

theorem find_none_of_ne {a : Word} (h : ∀ i, a ≠ mrAddr p i) :
    regIndices.find? (fun i => a == mrAddr p i) = none := by
  simpa [List.find?_eq_none] using fun i _ => h i

/-- The address of the prescale register resolves to it. -/
theorem regOf_prAddr (h : paramsAccepted p = true) : regOf p (prAddr p) = .pr := by
  simp [regOf, find_none_of_ne (mem_fixed_ne_mrAddr h (by simp : prAddr p ∈ [prAddr p, pcrAddr p, lerAddr p]))]

theorem fixed_nodup (h : paramsAccepted p = true) : [prAddr p, pcrAddr p, lerAddr p].Nodup :=
  (List.nodup_append.mp (regAddrs_nodup h)).2.1

/-- The address of the control register resolves to it. -/
theorem regOf_pcrAddr (h : paramsAccepted p = true) : regOf p (pcrAddr p) = .pcr := by
  have hn := fixed_nodup h
  simp only [List.nodup_cons, List.mem_cons, List.not_mem_nil, or_false, not_or] at hn
  simp [regOf, find_none_of_ne (mem_fixed_ne_mrAddr h (by simp : pcrAddr p ∈ [prAddr p, pcrAddr p, lerAddr p])),
    Ne.symm hn.1.1]

/-- The address of the latch-enable register resolves to it. -/
theorem regOf_lerAddr (h : paramsAccepted p = true) : regOf p (lerAddr p) = .ler := by
  have hn := fixed_nodup h
  simp only [List.nodup_cons, List.mem_cons, List.not_mem_nil, or_false, not_or] at hn
  simp [regOf, find_none_of_ne (mem_fixed_ne_mrAddr h (by simp : lerAddr p ∈ [prAddr p, pcrAddr p, lerAddr p])),
    Ne.symm hn.1.2, Ne.symm hn.2.1]

/-- Distinct channels have distinct enable-bit positions. -/
theorem enaBit_injective (h : paramsAccepted p = true) {c d : Fin 6} (e : p.enaBit[c] = p.enaBit[d]) : c = d := by
  have hn := (conditions_of_accepted h).2.2.1
  rw [List.nodup_iff_injective_get] at hn
  have := @hn ⟨c.val, by simp⟩ ⟨d.val, by simp⟩ (by simpa using e)
  exact Fin.ext (by simpa using this)

/-- Distinct register indices have distinct latch-bit positions. -/
theorem lerBit_injective (h : paramsAccepted p = true) {i j : Fin 7} (e : p.lerBit[i] = p.lerBit[j]) : i = j := by
  have hn := (conditions_of_accepted h).2.2.2.1
  rw [List.nodup_iff_injective_get] at hn
  have := @hn ⟨i.val, by simp⟩ ⟨j.val, by simp⟩ (by simpa using e)
  exact Fin.ext (by simpa using this)

/-- R7, R8: the default parameter set is accepted. -/
theorem defaultParams_accepted : paramsAccepted defaultParams = true := by decide +kernel

end Sys2Proof.Machine
end

