-- ==== Sys2Proof/Laws/State.lean ====
section
/-!
SUPPORT. One lemma per field per update of the state, each true by `rfl`, so that no later proof unfolds an update.
-/

namespace Sys2Proof.Machine

open Sys2Proof

variable (s : State)

/-! ## setMr -/

@[simp] theorem State.setMr_cfg (i : Fin 7) (v : Word) : (s.setMr i v).cfg = s.cfg := rfl
@[simp] theorem State.setMr_program (i : Fin 7) (v : Word) : (s.setMr i v).program = s.program := rfl
@[simp] theorem State.setMr_unserialised (i : Fin 7) (v : Word) : (s.setMr i v).unserialised = s.unserialised := rfl
@[simp] theorem State.setMr_pc (i : Fin 7) (v : Word) : (s.setMr i v).pc = s.pc := rfl
@[simp] theorem State.setMr_result (i : Fin 7) (v : Word) : (s.setMr i v).result = s.result := rfl
@[simp] theorem State.setMr_active (i : Fin 7) (v : Word) : (s.setMr i v).active = s.active := rfl
@[simp] theorem State.setMr_mr (i : Fin 7) (v : Word) : (s.setMr i v).mr = s.mr.set i (some v) := rfl
@[simp] theorem State.setMr_applied (i : Fin 7) (v : Word) : (s.setMr i v).applied = s.applied := rfl
@[simp] theorem State.setMr_ler (i : Fin 7) (v : Word) : (s.setMr i v).ler = s.ler := rfl
@[simp] theorem State.setMr_ena (i : Fin 7) (v : Word) : (s.setMr i v).ena = s.ena := rfl
@[simp] theorem State.setMr_pcrOther (i : Fin 7) (v : Word) : (s.setMr i v).pcrOther = s.pcrOther := rfl
@[simp] theorem State.setMr_pinmux (i : Fin 7) (v : Word) : (s.setMr i v).pinmux = s.pinmux := rfl
@[simp] theorem State.setMr_pr (i : Fin 7) (v : Word) : (s.setMr i v).pr = s.pr := rfl
@[simp] theorem State.setMr_inited (i : Fin 7) (v : Word) : (s.setMr i v).inited = s.inited := rfl
@[simp] theorem State.setMr_fault (i : Fin 7) (v : Word) : (s.setMr i v).fault = s.fault := rfl
@[simp] theorem State.setMr_timer (i : Fin 7) (v : Word) : (s.setMr i v).timer = s.timer := rfl
@[simp] theorem State.setMr_resultReads (i : Fin 7) (v : Word) : (s.setMr i v).resultReads = s.resultReads := rfl
@[simp] theorem State.setMr_draws (i : Fin 7) (v : Word) : (s.setMr i v).draws = s.draws := rfl

/-! ## setPr -/

@[simp] theorem State.setPr_cfg (v : Word) : (s.setPr v).cfg = s.cfg := rfl
@[simp] theorem State.setPr_program (v : Word) : (s.setPr v).program = s.program := rfl
@[simp] theorem State.setPr_unserialised (v : Word) : (s.setPr v).unserialised = s.unserialised := rfl
@[simp] theorem State.setPr_pc (v : Word) : (s.setPr v).pc = s.pc := rfl
@[simp] theorem State.setPr_result (v : Word) : (s.setPr v).result = s.result := rfl
@[simp] theorem State.setPr_active (v : Word) : (s.setPr v).active = s.active := rfl
@[simp] theorem State.setPr_mr (v : Word) : (s.setPr v).mr = s.mr := rfl
@[simp] theorem State.setPr_applied (v : Word) : (s.setPr v).applied = s.applied := rfl
@[simp] theorem State.setPr_ler (v : Word) : (s.setPr v).ler = s.ler := rfl
@[simp] theorem State.setPr_ena (v : Word) : (s.setPr v).ena = s.ena := rfl
@[simp] theorem State.setPr_pcrOther (v : Word) : (s.setPr v).pcrOther = s.pcrOther := rfl
@[simp] theorem State.setPr_pinmux (v : Word) : (s.setPr v).pinmux = s.pinmux := rfl
@[simp] theorem State.setPr_pr (v : Word) : (s.setPr v).pr = some v := rfl
@[simp] theorem State.setPr_inited (v : Word) : (s.setPr v).inited = s.inited := rfl
@[simp] theorem State.setPr_fault (v : Word) : (s.setPr v).fault = s.fault := rfl
@[simp] theorem State.setPr_timer (v : Word) : (s.setPr v).timer = s.timer := rfl
@[simp] theorem State.setPr_resultReads (v : Word) : (s.setPr v).resultReads = s.resultReads := rfl
@[simp] theorem State.setPr_draws (v : Word) : (s.setPr v).draws = s.draws := rfl

/-! ## requestLatch -/

@[simp] theorem State.requestLatch_cfg (i : Fin 7) : (s.requestLatch i).cfg = s.cfg := rfl
@[simp] theorem State.requestLatch_program (i : Fin 7) : (s.requestLatch i).program = s.program := rfl
@[simp] theorem State.requestLatch_unserialised (i : Fin 7) : (s.requestLatch i).unserialised = s.unserialised := rfl
@[simp] theorem State.requestLatch_pc (i : Fin 7) : (s.requestLatch i).pc = s.pc := rfl
@[simp] theorem State.requestLatch_result (i : Fin 7) : (s.requestLatch i).result = s.result := rfl
@[simp] theorem State.requestLatch_active (i : Fin 7) : (s.requestLatch i).active = s.active := rfl
@[simp] theorem State.requestLatch_mr (i : Fin 7) : (s.requestLatch i).mr = s.mr := rfl
@[simp] theorem State.requestLatch_applied (i : Fin 7) : (s.requestLatch i).applied = s.applied := rfl
@[simp] theorem State.requestLatch_ler (i : Fin 7) : (s.requestLatch i).ler = s.ler.set i true := rfl
@[simp] theorem State.requestLatch_ena (i : Fin 7) : (s.requestLatch i).ena = s.ena := rfl
@[simp] theorem State.requestLatch_pcrOther (i : Fin 7) : (s.requestLatch i).pcrOther = s.pcrOther := rfl
@[simp] theorem State.requestLatch_pinmux (i : Fin 7) : (s.requestLatch i).pinmux = s.pinmux := rfl
@[simp] theorem State.requestLatch_pr (i : Fin 7) : (s.requestLatch i).pr = s.pr := rfl
@[simp] theorem State.requestLatch_inited (i : Fin 7) : (s.requestLatch i).inited = s.inited := rfl
@[simp] theorem State.requestLatch_fault (i : Fin 7) : (s.requestLatch i).fault = s.fault := rfl
@[simp] theorem State.requestLatch_timer (i : Fin 7) : (s.requestLatch i).timer = s.timer := rfl
@[simp] theorem State.requestLatch_resultReads (i : Fin 7) : (s.requestLatch i).resultReads = s.resultReads := rfl
@[simp] theorem State.requestLatch_draws (i : Fin 7) : (s.requestLatch i).draws = s.draws := rfl

/-! ## setEna -/

@[simp] theorem State.setEna_cfg (c : Channel) (b : Bool) : (s.setEna c b).cfg = s.cfg := rfl
@[simp] theorem State.setEna_program (c : Channel) (b : Bool) : (s.setEna c b).program = s.program := rfl
@[simp] theorem State.setEna_unserialised (c : Channel) (b : Bool) : (s.setEna c b).unserialised = s.unserialised := rfl
@[simp] theorem State.setEna_pc (c : Channel) (b : Bool) : (s.setEna c b).pc = s.pc := rfl
@[simp] theorem State.setEna_result (c : Channel) (b : Bool) : (s.setEna c b).result = s.result := rfl
@[simp] theorem State.setEna_active (c : Channel) (b : Bool) : (s.setEna c b).active = s.active := rfl
@[simp] theorem State.setEna_mr (c : Channel) (b : Bool) : (s.setEna c b).mr = s.mr := rfl
@[simp] theorem State.setEna_applied (c : Channel) (b : Bool) : (s.setEna c b).applied = s.applied := rfl
@[simp] theorem State.setEna_ler (c : Channel) (b : Bool) : (s.setEna c b).ler = s.ler := rfl
@[simp] theorem State.setEna_ena (c : Channel) (b : Bool) : (s.setEna c b).ena = s.ena.set c b := rfl
@[simp] theorem State.setEna_pcrOther (c : Channel) (b : Bool) : (s.setEna c b).pcrOther = s.pcrOther := rfl
@[simp] theorem State.setEna_pinmux (c : Channel) (b : Bool) : (s.setEna c b).pinmux = s.pinmux := rfl
@[simp] theorem State.setEna_pr (c : Channel) (b : Bool) : (s.setEna c b).pr = s.pr := rfl
@[simp] theorem State.setEna_inited (c : Channel) (b : Bool) : (s.setEna c b).inited = s.inited := rfl
@[simp] theorem State.setEna_fault (c : Channel) (b : Bool) : (s.setEna c b).fault = s.fault := rfl
@[simp] theorem State.setEna_timer (c : Channel) (b : Bool) : (s.setEna c b).timer = s.timer := rfl
@[simp] theorem State.setEna_resultReads (c : Channel) (b : Bool) : (s.setEna c b).resultReads = s.resultReads := rfl
@[simp] theorem State.setEna_draws (c : Channel) (b : Bool) : (s.setEna c b).draws = s.draws := rfl

/-! ## markActive -/

@[simp] theorem State.markActive_cfg (port : Fin 5) (c : Channel) : (s.markActive port c).cfg = s.cfg := rfl
@[simp] theorem State.markActive_program (port : Fin 5) (c : Channel) : (s.markActive port c).program = s.program := rfl
@[simp] theorem State.markActive_unserialised (port : Fin 5) (c : Channel) : (s.markActive port c).unserialised = s.unserialised := rfl
@[simp] theorem State.markActive_pc (port : Fin 5) (c : Channel) : (s.markActive port c).pc = s.pc := rfl
@[simp] theorem State.markActive_result (port : Fin 5) (c : Channel) : (s.markActive port c).result = s.result := rfl
@[simp] theorem State.markActive_active (port : Fin 5) (c : Channel) : (s.markActive port c).active = s.active ||| bit (bitIndex port c) := rfl
@[simp] theorem State.markActive_mr (port : Fin 5) (c : Channel) : (s.markActive port c).mr = s.mr := rfl
@[simp] theorem State.markActive_applied (port : Fin 5) (c : Channel) : (s.markActive port c).applied = s.applied := rfl
@[simp] theorem State.markActive_ler (port : Fin 5) (c : Channel) : (s.markActive port c).ler = s.ler := rfl
@[simp] theorem State.markActive_ena (port : Fin 5) (c : Channel) : (s.markActive port c).ena = s.ena := rfl
@[simp] theorem State.markActive_pcrOther (port : Fin 5) (c : Channel) : (s.markActive port c).pcrOther = s.pcrOther := rfl
@[simp] theorem State.markActive_pinmux (port : Fin 5) (c : Channel) : (s.markActive port c).pinmux = s.pinmux := rfl
@[simp] theorem State.markActive_pr (port : Fin 5) (c : Channel) : (s.markActive port c).pr = s.pr := rfl
@[simp] theorem State.markActive_inited (port : Fin 5) (c : Channel) : (s.markActive port c).inited = s.inited := rfl
@[simp] theorem State.markActive_fault (port : Fin 5) (c : Channel) : (s.markActive port c).fault = s.fault := rfl
@[simp] theorem State.markActive_timer (port : Fin 5) (c : Channel) : (s.markActive port c).timer = s.timer := rfl
@[simp] theorem State.markActive_resultReads (port : Fin 5) (c : Channel) : (s.markActive port c).resultReads = s.resultReads := rfl
@[simp] theorem State.markActive_draws (port : Fin 5) (c : Channel) : (s.markActive port c).draws = s.draws := rfl

/-! ## markInactive -/

@[simp] theorem State.markInactive_cfg (port : Fin 5) (c : Channel) : (s.markInactive port c).cfg = s.cfg := rfl
@[simp] theorem State.markInactive_program (port : Fin 5) (c : Channel) : (s.markInactive port c).program = s.program := rfl
@[simp] theorem State.markInactive_unserialised (port : Fin 5) (c : Channel) : (s.markInactive port c).unserialised = s.unserialised := rfl
@[simp] theorem State.markInactive_pc (port : Fin 5) (c : Channel) : (s.markInactive port c).pc = s.pc := rfl
@[simp] theorem State.markInactive_result (port : Fin 5) (c : Channel) : (s.markInactive port c).result = s.result := rfl
@[simp] theorem State.markInactive_active (port : Fin 5) (c : Channel) : (s.markInactive port c).active = s.active &&& ~~~ bit (bitIndex port c) := rfl
@[simp] theorem State.markInactive_mr (port : Fin 5) (c : Channel) : (s.markInactive port c).mr = s.mr := rfl
@[simp] theorem State.markInactive_applied (port : Fin 5) (c : Channel) : (s.markInactive port c).applied = s.applied := rfl
@[simp] theorem State.markInactive_ler (port : Fin 5) (c : Channel) : (s.markInactive port c).ler = s.ler := rfl
@[simp] theorem State.markInactive_ena (port : Fin 5) (c : Channel) : (s.markInactive port c).ena = s.ena := rfl
@[simp] theorem State.markInactive_pcrOther (port : Fin 5) (c : Channel) : (s.markInactive port c).pcrOther = s.pcrOther := rfl
@[simp] theorem State.markInactive_pinmux (port : Fin 5) (c : Channel) : (s.markInactive port c).pinmux = s.pinmux := rfl
@[simp] theorem State.markInactive_pr (port : Fin 5) (c : Channel) : (s.markInactive port c).pr = s.pr := rfl
@[simp] theorem State.markInactive_inited (port : Fin 5) (c : Channel) : (s.markInactive port c).inited = s.inited := rfl
@[simp] theorem State.markInactive_fault (port : Fin 5) (c : Channel) : (s.markInactive port c).fault = s.fault := rfl
@[simp] theorem State.markInactive_timer (port : Fin 5) (c : Channel) : (s.markInactive port c).timer = s.timer := rfl
@[simp] theorem State.markInactive_resultReads (port : Fin 5) (c : Channel) : (s.markInactive port c).resultReads = s.resultReads := rfl
@[simp] theorem State.markInactive_draws (port : Fin 5) (c : Channel) : (s.markInactive port c).draws = s.draws := rfl

/-! ## setPinmux -/

@[simp] theorem State.setPinmux_cfg (port : Fin 5) (n : Fin 32) (v : FeatureCode) : (s.setPinmux port n v).cfg = s.cfg := rfl
@[simp] theorem State.setPinmux_program (port : Fin 5) (n : Fin 32) (v : FeatureCode) : (s.setPinmux port n v).program = s.program := rfl
@[simp] theorem State.setPinmux_unserialised (port : Fin 5) (n : Fin 32) (v : FeatureCode) : (s.setPinmux port n v).unserialised = s.unserialised := rfl
@[simp] theorem State.setPinmux_pc (port : Fin 5) (n : Fin 32) (v : FeatureCode) : (s.setPinmux port n v).pc = s.pc := rfl
@[simp] theorem State.setPinmux_result (port : Fin 5) (n : Fin 32) (v : FeatureCode) : (s.setPinmux port n v).result = s.result := rfl
@[simp] theorem State.setPinmux_active (port : Fin 5) (n : Fin 32) (v : FeatureCode) : (s.setPinmux port n v).active = s.active := rfl
@[simp] theorem State.setPinmux_mr (port : Fin 5) (n : Fin 32) (v : FeatureCode) : (s.setPinmux port n v).mr = s.mr := rfl
@[simp] theorem State.setPinmux_applied (port : Fin 5) (n : Fin 32) (v : FeatureCode) : (s.setPinmux port n v).applied = s.applied := rfl
@[simp] theorem State.setPinmux_ler (port : Fin 5) (n : Fin 32) (v : FeatureCode) : (s.setPinmux port n v).ler = s.ler := rfl
@[simp] theorem State.setPinmux_ena (port : Fin 5) (n : Fin 32) (v : FeatureCode) : (s.setPinmux port n v).ena = s.ena := rfl
@[simp] theorem State.setPinmux_pcrOther (port : Fin 5) (n : Fin 32) (v : FeatureCode) : (s.setPinmux port n v).pcrOther = s.pcrOther := rfl
@[simp] theorem State.setPinmux_pinmux (port : Fin 5) (n : Fin 32) (v : FeatureCode) : (s.setPinmux port n v).pinmux = s.pinmux.set port (s.pinmux[port].set n (some v)) := rfl
@[simp] theorem State.setPinmux_pr (port : Fin 5) (n : Fin 32) (v : FeatureCode) : (s.setPinmux port n v).pr = s.pr := rfl
@[simp] theorem State.setPinmux_inited (port : Fin 5) (n : Fin 32) (v : FeatureCode) : (s.setPinmux port n v).inited = s.inited := rfl
@[simp] theorem State.setPinmux_fault (port : Fin 5) (n : Fin 32) (v : FeatureCode) : (s.setPinmux port n v).fault = s.fault := rfl
@[simp] theorem State.setPinmux_timer (port : Fin 5) (n : Fin 32) (v : FeatureCode) : (s.setPinmux port n v).timer = s.timer := rfl
@[simp] theorem State.setPinmux_resultReads (port : Fin 5) (n : Fin 32) (v : FeatureCode) : (s.setPinmux port n v).resultReads = s.resultReads := rfl
@[simp] theorem State.setPinmux_draws (port : Fin 5) (n : Fin 32) (v : FeatureCode) : (s.setPinmux port n v).draws = s.draws := rfl

/-! ## setResult -/

@[simp] theorem State.setResult_cfg (v : Word) : (s.setResult v).cfg = s.cfg := rfl
@[simp] theorem State.setResult_program (v : Word) : (s.setResult v).program = s.program := rfl
@[simp] theorem State.setResult_unserialised (v : Word) : (s.setResult v).unserialised = s.unserialised := rfl
@[simp] theorem State.setResult_pc (v : Word) : (s.setResult v).pc = s.pc := rfl
@[simp] theorem State.setResult_result (v : Word) : (s.setResult v).result = some v := rfl
@[simp] theorem State.setResult_active (v : Word) : (s.setResult v).active = s.active := rfl
@[simp] theorem State.setResult_mr (v : Word) : (s.setResult v).mr = s.mr := rfl
@[simp] theorem State.setResult_applied (v : Word) : (s.setResult v).applied = s.applied := rfl
@[simp] theorem State.setResult_ler (v : Word) : (s.setResult v).ler = s.ler := rfl
@[simp] theorem State.setResult_ena (v : Word) : (s.setResult v).ena = s.ena := rfl
@[simp] theorem State.setResult_pcrOther (v : Word) : (s.setResult v).pcrOther = s.pcrOther := rfl
@[simp] theorem State.setResult_pinmux (v : Word) : (s.setResult v).pinmux = s.pinmux := rfl
@[simp] theorem State.setResult_pr (v : Word) : (s.setResult v).pr = s.pr := rfl
@[simp] theorem State.setResult_inited (v : Word) : (s.setResult v).inited = s.inited := rfl
@[simp] theorem State.setResult_fault (v : Word) : (s.setResult v).fault = s.fault := rfl
@[simp] theorem State.setResult_timer (v : Word) : (s.setResult v).timer = s.timer := rfl
@[simp] theorem State.setResult_resultReads (v : Word) : (s.setResult v).resultReads = s.resultReads := rfl
@[simp] theorem State.setResult_draws (v : Word) : (s.setResult v).draws = s.draws := rfl

/-! ## setInited -/

@[simp] theorem State.setInited_cfg : s.setInited.cfg = s.cfg := rfl
@[simp] theorem State.setInited_program : s.setInited.program = s.program := rfl
@[simp] theorem State.setInited_unserialised : s.setInited.unserialised = s.unserialised := rfl
@[simp] theorem State.setInited_pc : s.setInited.pc = s.pc := rfl
@[simp] theorem State.setInited_result : s.setInited.result = s.result := rfl
@[simp] theorem State.setInited_active : s.setInited.active = s.active := rfl
@[simp] theorem State.setInited_mr : s.setInited.mr = s.mr := rfl
@[simp] theorem State.setInited_applied : s.setInited.applied = s.applied := rfl
@[simp] theorem State.setInited_ler : s.setInited.ler = s.ler := rfl
@[simp] theorem State.setInited_ena : s.setInited.ena = s.ena := rfl
@[simp] theorem State.setInited_pcrOther : s.setInited.pcrOther = s.pcrOther := rfl
@[simp] theorem State.setInited_pinmux : s.setInited.pinmux = s.pinmux := rfl
@[simp] theorem State.setInited_pr : s.setInited.pr = s.pr := rfl
@[simp] theorem State.setInited_inited : s.setInited.inited = true := rfl
@[simp] theorem State.setInited_fault : s.setInited.fault = s.fault := rfl
@[simp] theorem State.setInited_timer : s.setInited.timer = s.timer := rfl
@[simp] theorem State.setInited_resultReads : s.setInited.resultReads = s.resultReads := rfl
@[simp] theorem State.setInited_draws : s.setInited.draws = s.draws := rfl

/-! ## advance -/

@[simp] theorem State.advance_cfg (n : Nat) : (s.advance n).cfg = s.cfg := rfl
@[simp] theorem State.advance_program (n : Nat) : (s.advance n).program = s.program := rfl
@[simp] theorem State.advance_unserialised (n : Nat) : (s.advance n).unserialised = s.unserialised := rfl
@[simp] theorem State.advance_pc (n : Nat) : (s.advance n).pc = s.pc + n := rfl
@[simp] theorem State.advance_result (n : Nat) : (s.advance n).result = s.result := rfl
@[simp] theorem State.advance_active (n : Nat) : (s.advance n).active = s.active := rfl
@[simp] theorem State.advance_mr (n : Nat) : (s.advance n).mr = s.mr := rfl
@[simp] theorem State.advance_applied (n : Nat) : (s.advance n).applied = s.applied := rfl
@[simp] theorem State.advance_ler (n : Nat) : (s.advance n).ler = s.ler := rfl
@[simp] theorem State.advance_ena (n : Nat) : (s.advance n).ena = s.ena := rfl
@[simp] theorem State.advance_pcrOther (n : Nat) : (s.advance n).pcrOther = s.pcrOther := rfl
@[simp] theorem State.advance_pinmux (n : Nat) : (s.advance n).pinmux = s.pinmux := rfl
@[simp] theorem State.advance_pr (n : Nat) : (s.advance n).pr = s.pr := rfl
@[simp] theorem State.advance_inited (n : Nat) : (s.advance n).inited = s.inited := rfl
@[simp] theorem State.advance_fault (n : Nat) : (s.advance n).fault = s.fault := rfl
@[simp] theorem State.advance_timer (n : Nat) : (s.advance n).timer = s.timer := rfl
@[simp] theorem State.advance_resultReads (n : Nat) : (s.advance n).resultReads = s.resultReads := rfl
@[simp] theorem State.advance_draws (n : Nat) : (s.advance n).draws = s.draws := rfl

/-! ## countDraw -/

@[simp] theorem State.countDraw_cfg : s.countDraw.cfg = s.cfg := rfl
@[simp] theorem State.countDraw_program : s.countDraw.program = s.program := rfl
@[simp] theorem State.countDraw_unserialised : s.countDraw.unserialised = s.unserialised := rfl
@[simp] theorem State.countDraw_pc : s.countDraw.pc = s.pc := rfl
@[simp] theorem State.countDraw_result : s.countDraw.result = s.result := rfl
@[simp] theorem State.countDraw_active : s.countDraw.active = s.active := rfl
@[simp] theorem State.countDraw_mr : s.countDraw.mr = s.mr := rfl
@[simp] theorem State.countDraw_applied : s.countDraw.applied = s.applied := rfl
@[simp] theorem State.countDraw_ler : s.countDraw.ler = s.ler := rfl
@[simp] theorem State.countDraw_ena : s.countDraw.ena = s.ena := rfl
@[simp] theorem State.countDraw_pcrOther : s.countDraw.pcrOther = s.pcrOther := rfl
@[simp] theorem State.countDraw_pinmux : s.countDraw.pinmux = s.pinmux := rfl
@[simp] theorem State.countDraw_pr : s.countDraw.pr = s.pr := rfl
@[simp] theorem State.countDraw_inited : s.countDraw.inited = s.inited := rfl
@[simp] theorem State.countDraw_fault : s.countDraw.fault = s.fault := rfl
@[simp] theorem State.countDraw_timer : s.countDraw.timer = s.timer := rfl
@[simp] theorem State.countDraw_resultReads : s.countDraw.resultReads = s.resultReads := rfl
@[simp] theorem State.countDraw_draws : s.countDraw.draws = s.draws + 1 := rfl

/-! ## raiseFault -/

@[simp] theorem State.raiseFault_cfg (code : FaultCode) : (s.raiseFault code).cfg = s.cfg := rfl
@[simp] theorem State.raiseFault_program (code : FaultCode) : (s.raiseFault code).program = s.program := rfl
@[simp] theorem State.raiseFault_unserialised (code : FaultCode) : (s.raiseFault code).unserialised = s.unserialised := rfl
@[simp] theorem State.raiseFault_pc (code : FaultCode) : (s.raiseFault code).pc = s.pc := rfl
@[simp] theorem State.raiseFault_result (code : FaultCode) : (s.raiseFault code).result = s.result := rfl
@[simp] theorem State.raiseFault_active (code : FaultCode) : (s.raiseFault code).active = s.active := rfl
@[simp] theorem State.raiseFault_mr (code : FaultCode) : (s.raiseFault code).mr = s.mr := rfl
@[simp] theorem State.raiseFault_applied (code : FaultCode) : (s.raiseFault code).applied = s.applied := rfl
@[simp] theorem State.raiseFault_ler (code : FaultCode) : (s.raiseFault code).ler = s.ler := rfl
@[simp] theorem State.raiseFault_ena (code : FaultCode) : (s.raiseFault code).ena = s.ena := rfl
@[simp] theorem State.raiseFault_pcrOther (code : FaultCode) : (s.raiseFault code).pcrOther = s.pcrOther := rfl
@[simp] theorem State.raiseFault_pinmux (code : FaultCode) : (s.raiseFault code).pinmux = s.pinmux := rfl
@[simp] theorem State.raiseFault_pr (code : FaultCode) : (s.raiseFault code).pr = s.pr := rfl
@[simp] theorem State.raiseFault_inited (code : FaultCode) : (s.raiseFault code).inited = s.inited := rfl
@[simp] theorem State.raiseFault_fault (code : FaultCode) : (s.raiseFault code).fault = some code := rfl
@[simp] theorem State.raiseFault_timer (code : FaultCode) : (s.raiseFault code).timer = s.timer := rfl
@[simp] theorem State.raiseFault_resultReads (code : FaultCode) : (s.raiseFault code).resultReads = s.resultReads := rfl
@[simp] theorem State.raiseFault_draws (code : FaultCode) : (s.raiseFault code).draws = s.draws := rfl

/-! ## boundary -/

@[simp] theorem State.boundary_cfg : s.boundary.cfg = s.cfg := rfl
@[simp] theorem State.boundary_program : s.boundary.program = s.program := rfl
@[simp] theorem State.boundary_unserialised : s.boundary.unserialised = s.unserialised := rfl
@[simp] theorem State.boundary_pc : s.boundary.pc = s.pc := rfl
@[simp] theorem State.boundary_result : s.boundary.result = s.result := rfl
@[simp] theorem State.boundary_active : s.boundary.active = s.active := rfl
@[simp] theorem State.boundary_mr : s.boundary.mr = s.mr := rfl
@[simp] theorem State.boundary_applied : s.boundary.applied = Vector.ofFn fun i => if s.ler[i] then s.mr[i] else s.applied[i] := rfl
@[simp] theorem State.boundary_ler : s.boundary.ler = Vector.replicate 7 false := rfl
@[simp] theorem State.boundary_ena : s.boundary.ena = s.ena := rfl
@[simp] theorem State.boundary_pcrOther : s.boundary.pcrOther = s.pcrOther := rfl
@[simp] theorem State.boundary_pinmux : s.boundary.pinmux = s.pinmux := rfl
@[simp] theorem State.boundary_pr : s.boundary.pr = s.pr := rfl
@[simp] theorem State.boundary_inited : s.boundary.inited = s.inited := rfl
@[simp] theorem State.boundary_fault : s.boundary.fault = s.fault := rfl
@[simp] theorem State.boundary_timer : s.boundary.timer = s.timer := rfl
@[simp] theorem State.boundary_resultReads : s.boundary.resultReads = s.resultReads := rfl
@[simp] theorem State.boundary_draws : s.boundary.draws = s.draws := rfl

end Sys2Proof.Machine
end

