-- ==== Sys2Proof/Laws/Timer.lean ====
section
/-!
SUPPORT. What a boundary and a turn of the timer do (43_controller.md R160), once.
-/

namespace Sys2Proof.Machine

open Sys2Proof

variable (s : State)

theorem boundary_applied_get (i : Fin 7) :
    s.boundary.applied[i] = if s.ler[i] then s.mr[i] else s.applied[i] := by
  simp

theorem boundary_ler_get (i : Fin 7) : s.boundary.ler[i] = false := by
  simp

/-- A turn of the timer changes at most `applied`, `ler` and the list of choices. -/
theorem timerTurn_eq :
    s.timerTurn = { s with
      applied := s.timerTurn.applied
      ler := s.timerTurn.ler
      timer := s.timer.tail } := by
  unfold State.timerTurn
  by_cases h : s.boundaryComes = true <;> simp [h, State.boundary]

@[simp] theorem State.timerTurn_cfg : s.timerTurn.cfg = s.cfg := by rw [timerTurn_eq]
@[simp] theorem State.timerTurn_program : s.timerTurn.program = s.program := by rw [timerTurn_eq]
@[simp] theorem State.timerTurn_unserialised : s.timerTurn.unserialised = s.unserialised := by rw [timerTurn_eq]
@[simp] theorem State.timerTurn_pc : s.timerTurn.pc = s.pc := by rw [timerTurn_eq]
@[simp] theorem State.timerTurn_result : s.timerTurn.result = s.result := by rw [timerTurn_eq]
@[simp] theorem State.timerTurn_active : s.timerTurn.active = s.active := by rw [timerTurn_eq]
@[simp] theorem State.timerTurn_mr : s.timerTurn.mr = s.mr := by rw [timerTurn_eq]
@[simp] theorem State.timerTurn_ena : s.timerTurn.ena = s.ena := by rw [timerTurn_eq]
@[simp] theorem State.timerTurn_pcrOther : s.timerTurn.pcrOther = s.pcrOther := by rw [timerTurn_eq]
@[simp] theorem State.timerTurn_pinmux : s.timerTurn.pinmux = s.pinmux := by rw [timerTurn_eq]
@[simp] theorem State.timerTurn_pr : s.timerTurn.pr = s.pr := by rw [timerTurn_eq]
@[simp] theorem State.timerTurn_inited : s.timerTurn.inited = s.inited := by rw [timerTurn_eq]
@[simp] theorem State.timerTurn_fault : s.timerTurn.fault = s.fault := by rw [timerTurn_eq]
@[simp] theorem State.timerTurn_timer : s.timerTurn.timer = s.timer.tail := by rw [timerTurn_eq]
@[simp] theorem State.timerTurn_resultReads : s.timerTurn.resultReads = s.resultReads := by rw [timerTurn_eq]
@[simp] theorem State.timerTurn_draws : s.timerTurn.draws = s.draws := by rw [timerTurn_eq]

theorem timerTurn_ler_get (i : Fin 7) : s.timerTurn.ler[i] = (!s.boundaryComes && s.ler[i]) := by
  unfold State.timerTurn
  cases h : s.boundaryComes <;> simp

theorem timerTurn_applied_get (i : Fin 7) :
    s.timerTurn.applied[i] = if s.boundaryComes && s.ler[i] then s.mr[i] else s.applied[i] := by
  unfold State.timerTurn
  cases h : s.boundaryComes <;> simp

/-- A turn at which no boundary comes changes only the list of choices. -/
theorem timerTurn_of_quiet (h : s.boundaryComes = false) : s.timerTurn = { s with timer := s.timer.tail } := by
  simp [State.timerTurn, h]

/-- A turn at which a boundary comes. -/
theorem timerTurn_of_boundary (h : s.boundaryComes = true) :
    s.timerTurn = { s.boundary with timer := s.timer.tail } := by
  simp [State.timerTurn, h]

/-- On a running machine, the coming boundary is the one at point 0. -/
theorem boundaryComes_eq (h : s.fault = none) : s.boundaryComes = s.boundaryAt 0 := by
  simp [State.boundaryComes, State.boundaryEnabled, State.boundaryAt, h, List.headD_eq_head?_getD, List.head?_eq_getElem?]

/-- A turn of the timer uses one point up. -/
theorem boundaryAt_timerTurn (k : Nat) : s.timerTurn.boundaryAt k = s.boundaryAt (k + 1) := by
  simp [State.boundaryAt]

/-- The points of two states with one parameter set and one list of choices agree. -/
theorem boundaryAt_congr {t : State} (hc : t.cfg = s.cfg) (ht : t.timer = s.timer) : t.boundaryAt = s.boundaryAt := by
  funext k
  rw [State.boundaryAt, State.boundaryAt, hc, ht]

theorem boundaryComes_of_quiet {n : Nat} (hf : s.fault = none) (h : QuietFor (n + 1) s) : s.boundaryComes = false := by
  rw [boundaryComes_eq s hf, h 0 (Nat.succ_pos n)]

end Sys2Proof.Machine
end

