-- ==== Sys2Proof/Laws/Ops.lean ====
section
/-!
SUPPORT. Each shared operation of Machine/Ops.lean once: what it answers, and what must hold when it answers a next
state.
-/

namespace Sys2Proof.Machine

open Sys2Proof

variable {s t : State}

/-! ## The register access layer -/

/-- A whole-word write at a match register's address stages the value there. -/
theorem busWrite_mrAddr (h : paramsAccepted s.cfg = true) (i : Fin 7) (v : Word) :
    s.busWrite (mrAddr s.cfg i) v = .next (s.setMr i v) := by
  simp [State.busWrite, regOf_mrAddr h]

/-- A whole-word write at the prescale register's address. -/
theorem busWrite_prAddr (h : paramsAccepted s.cfg = true) (v : Word) : s.busWrite (prAddr s.cfg) v = .next (s.setPr v) := by
  simp [State.busWrite, regOf_prAddr h]

/-- Whatever the parameters, a bus write that answers a next state wrote one match register or PR. -/
theorem busWrite_next {a v : Word} (h : s.busWrite a v = .next t) : (∃ i, t = s.setMr i v) ∨ t = s.setPr v := by
  unfold State.busWrite at h
  split at h
  · cases h; exact .inl ⟨_, rfl⟩
  · cases h; exact .inr rfl
  all_goals cases h

theorem andThen_next {o : Result} {k : State → Result} (h : andThen o k = .next t) : ∃ u, o = .next u ∧ k u = .next t := by
  cases o with
  | next u => exact ⟨u, rfl, h⟩
  | fault r => cases h
  | refused r => cases h

@[simp] theorem andThen_next_eq (u : State) (k : State → Result) : andThen (.next u) k = k u := rfl

/-- Under an accepted parameter set, staging a value and requesting its latch, with the timer's turn between. -/
theorem stageAndLatch_eq (h : paramsAccepted s.cfg = true) (i : Fin 7) (v : Word) (k : State → Result) :
    s.stageAndLatch i v k = k ((s.setMr i v).timerTurn.requestLatch i) := by
  simp [State.stageAndLatch, busWrite_mrAddr h]

theorem stageAndLatch_next {i : Fin 7} {v : Word} {k : State → Result} (h : s.stageAndLatch i v k = .next t) :
    ∃ u, ((∃ j, u = s.setMr j v) ∨ u = s.setPr v) ∧ k (u.timerTurn.requestLatch i) = .next t := by
  obtain ⟨u, hu, hk⟩ := andThen_next h
  exact ⟨u, busWrite_next hu, hk⟩

/-- A read of a match register that holds a staged value gives one of R112's candidates. -/
theorem readMatch_mem {i : Fin 7} (h : s.mr[i].isSome = true) : ∃ v ∈ s.readCandidates i, s.readMatch i = some v := by
  obtain ⟨m, hm⟩ := Option.isSome_iff_exists.mp h
  unfold State.readCandidates State.readMatch
  rw [hm]
  cases s.cfg.mrReadSource with
  | staged => simp
  | applied => cases ha : s.applied[i] <;> simp
  | either => cases ha : s.applied[i] <;> cases hd : Config.readTakesApplied s.draws <;> simp

/-- MRRD's read, where a staged value stands. -/
theorem busRead_mrAddr (h : paramsAccepted s.cfg = true) {i : Fin 7} (hm : s.mr[i].isSome = true) (k : Word → State → Result) :
    ∃ v ∈ s.readCandidates i, s.busRead (mrAddr s.cfg i) k = k v s.countDraw := by
  obtain ⟨v, hv, he⟩ := readMatch_mem hm
  exact ⟨v, hv, by simp [State.busRead, regOf_mrAddr h, he]⟩

theorem busRead_next {a : Word} {k : Word → State → Result} (h : s.busRead a k = .next t) :
    (∃ v, k v s.countDraw = .next t) ∨ t = s.raiseFault .readUnwritten := by
  unfold State.busRead at h
  split at h
  · split at h
    · exact .inl ⟨_, h⟩
    · cases h; exact .inr rfl
  all_goals cases h

/-! ## Issuing a command -/

theorem issue_of_running (h : s.fault = none) (k : Result) : s.issue k = k := by
  simp [State.issue, h]

theorem issue_of_fault {code : FaultCode} (h : s.fault = some code) (k : Result) : s.issue k = .fault (.halted code) := by
  simp [State.issue, h]

theorem issue_next {k : Result} (h : s.issue k = .next t) : s.fault = none ∧ k = .next t := by
  unfold State.issue at h
  split at h
  · cases h
  · exact ⟨‹_›, h⟩

/-- A pin command on a legal triple with a channel. -/
theorem issuePin_channel (h : s.fault = none) (port : Fin 5) (n : Fin 32) (c : Channel) (k : PhysPin → Result) :
    s.issuePin (pinOf port n c.succ) k = k { port := port, pinno := n, channel := some c } := by
  rw [State.issuePin, issue_of_running h, resolvePin_pinOf_succ]

/-- A pin command on a legal triple with channel 0. -/
theorem issuePin_zero (h : s.fault = none) (port : Fin 5) (n : Fin 32) (k : PhysPin → Result) :
    s.issuePin (pinOf port n 0) k = k { port := port, pinno := n, channel := none } := by
  rw [State.issuePin, issue_of_running h, resolvePin_pinOf_zero]

/-- A pin command on a pin outside the domain takes ILLEGAL_ENCODING. -/
theorem issuePin_illegal (h : s.fault = none) {p : Pin} (hp : p.wellFormed = false) (k : PhysPin → Result) :
    s.issuePin p k = .next (s.raiseFault .illegalEncoding) := by
  rw [State.issuePin, issue_of_running h, (resolvePin_eq_none p).mpr hp]

theorem issuePin_next {p : Pin} {k : PhysPin → Result} (h : s.issuePin p k = .next t) :
    s.fault = none ∧ (t = s.raiseFault .illegalEncoding ∨ ∃ q, resolvePin p = some q ∧ k q = .next t) := by
  obtain ⟨hf, hk⟩ := issue_next h
  refine ⟨hf, ?_⟩
  split at hk
  · cases hk; exact .inl rfl
  · exact .inr ⟨_, ‹_›, hk⟩

theorem requireInited_next {k : Result} (h : s.requireInited k = .next t) :
    t = s.raiseFault .notInitialised ∨ (s.inited = true ∧ k = .next t) := by
  unfold State.requireInited at h
  split at h
  · exact .inr ⟨‹_›, h⟩
  · cases h; exact .inl rfl

theorem requireChannel_next {q : PhysPin} {k : Channel → Result} (h : s.requireChannel q k = .next t) :
    t = s.raiseFault .channelZero ∨ ∃ c, q.channel = some c ∧ k c = .next t := by
  unfold State.requireChannel at h
  split at h
  · cases h; exact .inl rfl
  · exact .inr ⟨_, ‹_›, h⟩

theorem requireFeature_next {q : PhysPin} {k : Result} (h : s.requireFeature q k = .next t) :
    t = s.raiseFault .noPwmFeature ∨ (lacksFeature s.cfg q.port = false ∧ k = .next t) := by
  unfold State.requireFeature at h
  split at h
  · cases h; exact .inl rfl
  · rename_i hn
    exact .inr ⟨Bool.eq_false_iff.mpr hn, h⟩

theorem requireStaged_next {i : Fin 7} {k : Result} (h : s.requireStaged i k = .next t) :
    t = s.raiseFault .readUnwritten ∨ (s.mr[i].isSome = true ∧ k = .next t) := by
  unfold State.requireStaged at h
  split at h
  · cases h; exact .inl rfl
  · rename_i hn
    exact .inr ⟨by cases hm : s.mr[i] <;> simp_all, h⟩

/-! ## The caller's turn and refusals -/

/-- What the caller's read of RESULT does. -/
theorem callerRead_cases (s : State) :
    (s.result = none ∧ s.callerRead = s.raiseFault .readUnwritten)
      ∨ (s.result.isSome = true ∧ s.callerRead = { s with resultReads := s.resultReads.tail }) := by
  unfold State.callerRead
  cases s.result <;> simp

/-- A command is issued only where `pc` stands inside the command list and its word decodes. -/
theorem callerAction_issue {i : Instr} (h : s.callerAction = .issue i) :
    s.pc < s.program.length ∧ ∃ rest, decode (s.program.drop s.pc) = .ok (i, rest) := by
  unfold State.callerAction at h
  split at h
  · cases h
  · split at h
    · cases h
    · split at h
      · cases h
      · rename_i hd
        cases h
        exact ⟨by omega, _, hd⟩

/-- The machine refuses nothing exactly when the parameters are accepted, no other context calls, and no pins alias. -/
theorem refusal_none_iff (s : State) :
    s.refusal? = none ↔ paramsAccepted s.cfg = true ∧ s.hasUnserialised = false ∧ namesAliasedPins s.program = false := by
  unfold State.refusal?
  cases h1 : paramsAccepted s.cfg <;> cases h2 : s.hasUnserialised <;> cases h3 : namesAliasedPins s.program <;>
    simp

end Sys2Proof.Machine
end

