-- ==== Sys2Proof/Laws/Step.lean ====
section
/-!
SUPPORT. Everything a step can do, said once.
-/

namespace Sys2Proof.Machine

open Sys2Proof

variable {s t : State}

/-- A step that answers a next state comes from a running, admitted state, and is the caller's turn after the timer's. -/
theorem step_next (h : step s = .next t) : s.refusal? = none ∧ s.fault = none ∧ callerTurn s.timerTurn = .next t := by
  unfold step at h
  split at h
  · cases h
  · split at h
    · cases h
    · exact ⟨‹_›, ‹_›, h⟩

/-- The caller's turn: it reads RESULT, is finished, meets an illegal word, or runs a command. -/
theorem callerTurn_next (h : callerTurn s = .next t) :
    (s.callerAction = .readResult ∧ t = s.callerRead) ∨ (s.callerAction = .finished ∧ t = s)
      ∨ ((∃ e, s.callerAction = .illegal e) ∧ t = s.raiseFault .illegalEncoding)
      ∨ ∃ i, s.callerAction = .issue i ∧ exec i s = .next t := by
  unfold callerTurn at h
  split at h
  · cases h; exact .inl ⟨‹_›, rfl⟩
  · cases h; exact .inr (.inl ⟨‹_›, rfl⟩)
  · cases h; exact .inr (.inr (.inl ⟨⟨_, ‹_›⟩, rfl⟩))
  · exact .inr (.inr (.inr ⟨_, ‹_›, h⟩))

theorem step_of_running (hr : s.refusal? = none) (hf : s.fault = none) : step s = callerTurn s.timerTurn := by
  simp [step, hr, hf]

end Sys2Proof.Machine
end

