-- ==== Sys2Proof/Laws/Commands.lean ====
section
/-!
SUPPORT. Per command, what must hold when it answers a next state: it took a fault, or it went through its access steps.
No parameter set is assumed: `u` is what the register access layer made of the write.
-/

namespace Sys2Proof.Machine

open Sys2Proof

variable {s t : State} {pin : Pin}

/-- The state a fault leaves. -/
def TookFault (s t : State) : Prop := ∃ code, t = s.raiseFault code

theorem answer_next {v : Word} (h : s.answer v = .next t) : t = (s.setResult v).advance 1 := by
  cases h; rfl

/-- A pin command that needs a channel: it took a fault, or it went on with a resolved pin and its channel. -/
theorem pinChannel_next {k : PhysPin → Channel → Result}
    (h : (s.issuePin pin fun q => s.requireChannel q fun c => k q c) = .next t) :
    s.fault = none ∧ (TookFault s t ∨ ∃ q c, resolvePin pin = some q ∧ q.channel = some c ∧ k q c = .next t) := by
  obtain ⟨hf, h | ⟨q, hq, h⟩⟩ := issuePin_next h
  · exact ⟨hf, .inl ⟨_, h⟩⟩
  · obtain h | ⟨c, hc, h⟩ := requireChannel_next h
    · exact ⟨hf, .inl ⟨_, h⟩⟩
    · exact ⟨hf, .inr ⟨q, c, hq, hc, h⟩⟩

theorem execFeat_next (h : execFeat pin s = .next t) :
    s.fault = none ∧ (TookFault s t ∨ ∃ q, resolvePin pin = some q
      ∧ t = (s.setResult (sext32 (featureCode s.cfg q.port))).advance 1) := by
  obtain ⟨hf, h | ⟨q, hq, h⟩⟩ := issuePin_next h
  · exact ⟨hf, .inl ⟨_, h⟩⟩
  · exact ⟨hf, .inr ⟨q, hq, answer_next h⟩⟩

theorem execPinact_next (h : execPinact pin s = .next t) :
    s.fault = none ∧ (TookFault s t ∨ ∃ q, resolvePin pin = some q
      ∧ t = (s.setResult (boolWord (pinActive s.active q))).advance 1) := by
  obtain ⟨hf, h | ⟨q, hq, h⟩⟩ := issuePin_next h
  · exact ⟨hf, .inl ⟨_, h⟩⟩
  · exact ⟨hf, .inr ⟨q, hq, answer_next h⟩⟩

theorem execChact_next (h : execChact pin s = .next t) :
    s.fault = none ∧ (TookFault s t ∨ ∃ q, resolvePin pin = some q
      ∧ t = (s.setResult (boolWord (channelActive s.active q))).advance 1) := by
  obtain ⟨hf, h | ⟨q, hq, h⟩⟩ := issuePin_next h
  · exact ⟨hf, .inl ⟨_, h⟩⟩
  · exact ⟨hf, .inr ⟨q, hq, answer_next h⟩⟩

theorem execMraddr_next (h : execMraddr pin s = .next t) :
    s.fault = none ∧ (TookFault s t ∨ ∃ q c, resolvePin pin = some q ∧ q.channel = some c
      ∧ t = (s.setResult (mrAddr s.cfg (channelReg c))).advance 1) := by
  obtain ⟨hf, h | ⟨q, c, hq, hc, h⟩⟩ := pinChannel_next h
  · exact ⟨hf, .inl h⟩
  · exact ⟨hf, .inr ⟨q, c, hq, hc, answer_next h⟩⟩

theorem execBitidx_next (h : execBitidx pin s = .next t) :
    s.fault = none ∧ (TookFault s t ∨ ∃ q c, resolvePin pin = some q ∧ q.channel = some c
      ∧ t = (s.setResult (BitVec.ofNat 32 (bitIndex q.port c))).advance 1) := by
  obtain ⟨hf, h | ⟨q, c, hq, hc, h⟩⟩ := pinChannel_next h
  · exact ⟨hf, .inl h⟩
  · exact ⟨hf, .inr ⟨q, c, hq, hc, answer_next h⟩⟩

theorem execMarkact_next (h : execMarkact pin s = .next t) :
    s.fault = none ∧ (TookFault s t ∨ ∃ q c, resolvePin pin = some q ∧ q.channel = some c
      ∧ t = (s.markActive q.port c).advance 1) := by
  obtain ⟨hf, h | ⟨q, c, hq, hc, h⟩⟩ := pinChannel_next h
  · exact ⟨hf, .inl h⟩
  · cases h; exact ⟨hf, .inr ⟨q, c, hq, hc, rfl⟩⟩

theorem execMarkinact_next (h : execMarkinact pin s = .next t) :
    s.fault = none ∧ (TookFault s t ∨ ∃ q c, resolvePin pin = some q ∧ q.channel = some c
      ∧ t = (s.markInactive q.port c).advance 1) := by
  obtain ⟨hf, h | ⟨q, c, hq, hc, h⟩⟩ := pinChannel_next h
  · exact ⟨hf, .inl h⟩
  · cases h; exact ⟨hf, .inr ⟨q, c, hq, hc, rfl⟩⟩

theorem execMrrd_next (h : execMrrd pin s = .next t) :
    s.fault = none ∧ (TookFault s t ∨ ∃ q c v, resolvePin pin = some q ∧ q.channel = some c
      ∧ s.mr[channelReg c].isSome = true ∧ t = (s.countDraw.setResult v).advance 1) := by
  obtain ⟨hf, h | ⟨q, c, hq, hc, h⟩⟩ := pinChannel_next h
  · exact ⟨hf, .inl h⟩
  · obtain h | ⟨hm, h⟩ := requireStaged_next h
    · exact ⟨hf, .inl ⟨_, h⟩⟩
    · obtain ⟨v, h⟩ | h := busRead_next h
      · exact ⟨hf, .inr ⟨q, c, v, hq, hc, hm, answer_next h⟩⟩
      · exact ⟨hf, .inl ⟨_, h⟩⟩

theorem execMrwr_next {v : Word} (h : execMrwr pin v s = .next t) :
    s.fault = none ∧ (TookFault s t ∨ ∃ q c u, resolvePin pin = some q ∧ q.channel = some c
      ∧ s.busWrite (mrAddr s.cfg (channelReg c)) v = .next u ∧ t = u.advance 2) := by
  obtain ⟨hf, h | ⟨q, c, hq, hc, h⟩⟩ := pinChannel_next h
  · exact ⟨hf, .inl h⟩
  · obtain ⟨u, hu, h⟩ := andThen_next h
    cases h
    exact ⟨hf, .inr ⟨q, c, u, hq, hc, hu, rfl⟩⟩

theorem execInit_next {prescale period : Word} (h : execInit prescale period s = .next t) :
    s.fault = none ∧ ∃ u w, s.busWrite (prAddr s.cfg) prescale = .next u
      ∧ u.timerTurn.busWrite (mrAddr u.timerTurn.cfg periodReg) (initPeriodValue s.cfg period) = .next w
      ∧ t = (w.timerTurn.requestLatch periodReg).setInited.advance 3 := by
  obtain ⟨hf, h⟩ := issue_next h
  obtain ⟨u, hu, h⟩ := andThen_next h
  obtain ⟨w, hw, h⟩ := andThen_next h
  cases h
  exact ⟨hf, u, w, hu, hw, rfl⟩

theorem execSetper_next {period : Word} (h : execSetper period s = .next t) :
    s.fault = none ∧ ∃ u, s.busWrite (mrAddr s.cfg periodReg) (setperPeriodValue period) = .next u
      ∧ t = (u.timerTurn.requestLatch periodReg).advance 2 := by
  obtain ⟨hf, h⟩ := issue_next h
  obtain ⟨u, hu, h⟩ := andThen_next h
  cases h
  exact ⟨hf, u, hu, rfl⟩

theorem execSetmatch_next {v : Word} (h : execSetmatch pin v s = .next t) :
    s.fault = none ∧ (TookFault s t ∨ ∃ q c u, resolvePin pin = some q ∧ q.channel = some c ∧ s.inited = true
      ∧ s.busWrite (mrAddr s.cfg (channelReg c)) v = .next u
      ∧ t = (u.timerTurn.requestLatch (channelReg c)).advance 2) := by
  obtain ⟨hf, h | ⟨q, hq, h⟩⟩ := issuePin_next h
  · exact ⟨hf, .inl ⟨_, h⟩⟩
  · obtain h | ⟨hi, h⟩ := requireInited_next h
    · exact ⟨hf, .inl ⟨_, h⟩⟩
    · obtain h | ⟨c, hc, h⟩ := requireChannel_next h
      · exact ⟨hf, .inl ⟨_, h⟩⟩
      · obtain ⟨u, hu, h⟩ := andThen_next h
        cases h
        exact ⟨hf, .inr ⟨q, c, u, hq, hc, hi, hu, rfl⟩⟩

/-- ATTACH: `w` is the state after s2 and the timer's turn. -/
theorem execAttach_next {v : Word} (h : execAttach pin v s = .next t) :
    s.fault = none ∧ (TookFault s t ∨ ∃ q c u w, resolvePin pin = some q ∧ q.channel = some c ∧ s.inited = true
      ∧ lacksFeature s.cfg q.port = false
      ∧ s.busWrite (mrAddr s.cfg (channelReg c)) v = .next u
      ∧ w = (u.timerTurn.requestLatch (channelReg c)).timerTurn
      ∧ t = ((enableIfIdle (w.markActive q.port c) c (channelOwned w.active c)).timerTurn.setPinmux q.port q.pinno
          (featureCode s.cfg q.port)).advance 2) := by
  obtain ⟨hf, h | ⟨q, hq, h⟩⟩ := issuePin_next h
  · exact ⟨hf, .inl ⟨_, h⟩⟩
  · obtain h | ⟨hi, h⟩ := requireInited_next h
    · exact ⟨hf, .inl ⟨_, h⟩⟩
    · obtain h | ⟨c, hc, h⟩ := requireChannel_next h
      · exact ⟨hf, .inl ⟨_, h⟩⟩
      · obtain h | ⟨hl, h⟩ := requireFeature_next h
        · exact ⟨hf, .inl ⟨_, h⟩⟩
        · obtain ⟨u, hu, h⟩ := andThen_next h
          cases h
          exact ⟨hf, .inr ⟨q, c, u, _, hq, hc, hi, hl, hu, rfl, rfl⟩⟩

theorem execDetach_next (h : execDetach pin s = .next t) :
    s.fault = none ∧ (TookFault s t ∨ ∃ q c, resolvePin pin = some q ∧ q.channel = some c
      ∧ t = (disableIfUnowned (s.markInactive q.port c) c (channelOwned (s.markInactive q.port c).active c)).advance 1) := by
  obtain ⟨hf, h | ⟨q, c, hq, hc, h⟩⟩ := pinChannel_next h
  · exact ⟨hf, .inl h⟩
  · cases h; exact ⟨hf, .inr ⟨q, c, hq, hc, rfl⟩⟩

end Sys2Proof.Machine
end

