-- ==== Sys2Proof/Laws/PerInstr.lean ====
section
/-!
SUPPORT. A statement about every command as a term, made per constructor: its encoding has the number of words
30_encoding.md R73 gives it, a command word whose OP field is the opcode of R74, and nothing in the reserved bits of a
pin command (R75).
-/

namespace Sys2Proof.Laws.CommandWord

open Sys2Proof

/-- The `OP` value of R74. -/
def opOf : Instr → Nat
  | .init _ _ => 0x1
  | .setper _ => 0x2
  | .attach _ _ => 0x3
  | .setmatch _ _ => 0x4
  | .detach _ => 0x5
  | .pinact _ => 0x6
  | .chact _ => 0x7
  | .feat _ => 0x8
  | .mraddr _ => 0x9
  | .bitidx _ => 0xA
  | .markact _ => 0xB
  | .markinact _ => 0xC
  | .mrrd _ => 0xD
  | .mrwr _ _ => 0xE

/-- The encoding has R73's length, and its first word carries the command's `OP` and zero in `RSV`. -/
def Statement (i : Instr) : Prop :=
  (encode i).length = i.length
    ∧ ∃ w ws, encode i = w :: ws ∧ (fieldOp w).toNat = opOf i ∧ fieldRsv w = 0

theorem fieldOp_pinWord (op : Word) (h : op.toNat < 16) (p : Pin) : (fieldOp (pinWord op p)).toNat = op.toNat := by
  have : fieldOp (pinWord op p) = op.setWidth 4 := by
    apply BitVec.eq_of_getLsbD_eq
    intro i hi
    simp only [fieldOp, pinWord, BitVec.getLsbD_extractLsb', BitVec.getLsbD_or, BitVec.getLsbD_shiftLeft,
      BitVec.getLsbD_setWidth, Nat.zero_add]
    have h1 : i < 7 := by omega
    have h2 : i < 12 := by omega
    simp [hi, h1, h2]
  rw [this, BitVec.toNat_setWidth]
  omega

theorem fieldRsv_pinWord (op : Word) (h : op.toNat < 16) (p : Pin) : fieldRsv (pinWord op p) = 0 := by
  apply BitVec.eq_of_getLsbD_eq
  intro i hi
  have hop : op.getLsbD (15 + i) = false :=
    Nat.testBit_lt_two_pow (h.trans_le (by calc 16 = 2 ^ 4 := rfl
      _ ≤ 2 ^ (15 + i) := Nat.pow_le_pow_right (by decide) (by omega)))
  simp only [fieldRsv, pinWord, BitVec.getLsbD_extractLsb', BitVec.getLsbD_or, BitVec.getLsbD_shiftLeft,
    BitVec.getLsbD_setWidth, hop]
  have h1 : p.port.getLsbD (15 + i - 4) = false := BitVec.getLsbD_of_ge _ _ (by omega)
  have h2 : p.pinno.getLsbD (15 + i - 7) = false := BitVec.getLsbD_of_ge _ _ (by omega)
  have h3 : p.chan.getLsbD (15 + i - 12) = false := BitVec.getLsbD_of_ge _ _ (by omega)
  simp [h1, h2, h3]

/-- The encoding of a pin command without operands. -/
theorem pin_only {i : Instr} {op : Word} {pin : Pin} (h : encode i = [pinWord op pin]) (hl : i.length = 1)
    (ho : opOf i = op.toNat) (hlt : op.toNat < 16) : Statement i :=
  ⟨by rw [h, hl]; rfl, _, _, h, (fieldOp_pinWord op hlt pin).trans ho.symm, fieldRsv_pinWord op hlt pin⟩

/-- The encoding of a pin command with one operand word. -/
theorem pin_operand {i : Instr} {op v : Word} {pin : Pin} (h : encode i = [pinWord op pin, v]) (hl : i.length = 2)
    (ho : opOf i = op.toNat) (hlt : op.toNat < 16) : Statement i :=
  ⟨by rw [h, hl]; rfl, _, _, h, (fieldOp_pinWord op hlt pin).trans ho.symm, fieldRsv_pinWord op hlt pin⟩

theorem init (prescale period : Word) : Statement (.init prescale period) :=
  ⟨rfl, _, _, rfl, rfl, rfl⟩

theorem setper (period : Word) : Statement (.setper period) :=
  ⟨rfl, _, _, rfl, rfl, rfl⟩

theorem attach (pin : Pin) (value : Word) : Statement (.attach pin value) := pin_operand rfl rfl rfl (by decide)

theorem setmatch (pin : Pin) (value : Word) : Statement (.setmatch pin value) := pin_operand rfl rfl rfl (by decide)

theorem mrwr (pin : Pin) (value : Word) : Statement (.mrwr pin value) := pin_operand rfl rfl rfl (by decide)

theorem detach (pin : Pin) : Statement (.detach pin) := pin_only rfl rfl rfl (by decide)

theorem pinact (pin : Pin) : Statement (.pinact pin) := pin_only rfl rfl rfl (by decide)

theorem chact (pin : Pin) : Statement (.chact pin) := pin_only rfl rfl rfl (by decide)

theorem feat (pin : Pin) : Statement (.feat pin) := pin_only rfl rfl rfl (by decide)

theorem mraddr (pin : Pin) : Statement (.mraddr pin) := pin_only rfl rfl rfl (by decide)

theorem bitidx (pin : Pin) : Statement (.bitidx pin) := pin_only rfl rfl rfl (by decide)

theorem markact (pin : Pin) : Statement (.markact pin) := pin_only rfl rfl rfl (by decide)

theorem markinact (pin : Pin) : Statement (.markinact pin) := pin_only rfl rfl rfl (by decide)

theorem mrrd (pin : Pin) : Statement (.mrrd pin) := pin_only rfl rfl rfl (by decide)

end Sys2Proof.Laws.CommandWord
end

