-- ==== Sys2Proof/Tests/Slice0.lean ====
section
/-!
SUPPORT. The model's own tests. Expected results come from the spec: the vectors V<n> of 95_test_vectors.md, the examples of
30_encoding.md R82, and the command rules. After them, a named witness for the hypotheses of each statement.
-/

namespace Sys2Proof.Tests

open Sys2Proof Sys2Proof.Machine

/-! ## Small states -/

/-- The reset state with a timer that lets the next eight points pass. -/
def calm : State := { State.reset with timer := List.replicate 8 false }

/-- As `calm`, after INIT. -/
def ready : State := { calm with inited := true }

/-- As `ready`, with this bitset and only channel 3 enabled. -/
def enabled3 (active : Word) : State := { ready with active := active, ena := #v[false, false, true, false, false, false] }

/-- As `calm`, with this command list. -/
def loaded (ws : List Word) : State := { calm with program := ws }

/-- The named pins of the vectors. -/
def p1_21_3 : Pin := ⟨1, 21, 3⟩
def p2_2_3 : Pin := ⟨2, 2, 3⟩
def p1_21_0 : Pin := ⟨1, 21, 0⟩

/-- The fault an outcome's next state records. -/
def faultOf (o : Result) : Option FaultCode := (next? o).bind (·.fault)

/-! ## Well-formedness: each check refuses an ill-formed term -/

theorem test_port_five_is_illegal : (Instr.detach ⟨5, 0, 1⟩).wellFormed = false := by decide
theorem test_channel_seven_is_illegal : (Instr.attach ⟨1, 0, 7⟩ 1).wellFormed = false := by decide
theorem test_channel_zero_is_legal : (Instr.feat ⟨0, 0, 0⟩).wellFormed = true := by decide

/-! ## Decoding: a word of each command, written out from R71 and R74 (RSV, CHAN, PIN, PORT, OP) -/

theorem test_decode_init : decode [0b00000000000000000_000_00000_000_0001, 0, 1000] = .ok (.init 0 1000, []) := rfl
theorem test_decode_setper : decode [0b00000000000000000_000_00000_000_0010, 20000] = .ok (.setper 20000, []) := rfl
theorem test_decode_attach : decode [0b00000000000000000_011_10101_001_0011, 500] = .ok (.attach ⟨1, 21, 3⟩ 500, []) := rfl
theorem test_decode_setmatch : decode [0b00000000000000000_011_00010_010_0100, 250] = .ok (.setmatch ⟨2, 2, 3⟩ 250, []) := rfl
theorem test_decode_detach : decode [0b00000000000000000_011_10101_001_0101] = .ok (.detach ⟨1, 21, 3⟩, []) := rfl
theorem test_decode_pinact : decode [0b00000000000000000_011_10101_001_0110] = .ok (.pinact ⟨1, 21, 3⟩, []) := rfl
theorem test_decode_chact : decode [0b00000000000000000_011_00010_010_0111] = .ok (.chact ⟨2, 2, 3⟩, []) := rfl
theorem test_decode_feat : decode [0b00000000000000000_010_11001_011_1000] = .ok (.feat ⟨3, 25, 2⟩, []) := rfl
theorem test_decode_mraddr : decode [0b00000000000000000_110_00101_010_1001] = .ok (.mraddr ⟨2, 5, 6⟩, []) := rfl
theorem test_decode_bitidx : decode [0b00000000000000000_110_11111_100_1010] = .ok (.bitidx ⟨4, 31, 6⟩, []) := rfl
theorem test_decode_markact : decode [0b00000000000000000_110_00000_100_1011] = .ok (.markact ⟨4, 0, 6⟩, []) := rfl
theorem test_decode_markinact : decode [0b00000000000000000_011_10101_001_1100] = .ok (.markinact ⟨1, 21, 3⟩, []) := rfl
theorem test_decode_mrrd : decode [0b00000000000000000_001_10010_001_1101] = .ok (.mrrd ⟨1, 18, 1⟩, []) := rfl
theorem test_decode_mrwr : decode [0b00000000000000000_110_00101_010_1110, 7] = .ok (.mrwr ⟨2, 5, 6⟩ 7, []) := rfl

/-- The same words as numbers, from 95_test_vectors.md (V36, V13, V17, V21, V25, V26, V19, V19a). -/
theorem test_vector_words :
    decode [0x3124, 0xFA] = .ok (.setmatch ⟨2, 2, 3⟩ 250, []) ∧ decode [0x2CB8] = .ok (.feat ⟨3, 25, 2⟩, [])
      ∧ decode [0x62A9] = .ok (.mraddr ⟨2, 5, 6⟩, []) ∧ decode [0x6FCA] = .ok (.bitidx ⟨4, 31, 6⟩, [])
      ∧ decode [0x604B] = .ok (.markact ⟨4, 0, 6⟩, []) ∧ decode [0x3A9C] = .ok (.markinact ⟨1, 21, 3⟩, [])
      ∧ decode [0x191D] = .ok (.mrrd ⟨1, 18, 1⟩, []) ∧ decode [0x62AE, 7] = .ok (.mrwr ⟨2, 5, 6⟩ 7, []) :=
  ⟨rfl, rfl, rfl, rfl, rfl, rfl, rfl, rfl⟩

/-- V60 to V66. -/
theorem test_illegal_words :
    decode [0x00000000] = .error .illegalOp ∧ decode [0x0000000F] = .error .illegalOp
      ∧ decode [0x00008003, 1] = .error .reservedNonzero ∧ decode [0x00003053, 1] = .error .portOutOfRange
      ∧ decode [0x00007013, 1] = .error .channelOutOfRange ∧ decode [0x00000011, 0, 1] = .error .pinFieldsNonzero
      ∧ decode [0x00003A93] = .error .operandMissing :=
  ⟨rfl, rfl, rfl, rfl, rfl, rfl, rfl⟩

theorem test_table_word : decodeTableWord 32 0xE = some (.mrwr ⟨0, 0, 0⟩ 0) ∧ decodeTableWord 32 0xF = none := by decide

/-! ## Queries (V10, V13, V16, V18, V19, V19b, V20, V21, V23, V24) -/

theorem test_feat_sentinel : (next? (exec (.feat ⟨0, 0, 0⟩) calm)).map (·.result) = some (some 0xFFFFFFFF) := by decide +kernel
theorem test_feat_port3 : (next? (exec (.feat ⟨3, 25, 2⟩) calm)).map (·.result) = some (some 3) := by decide +kernel
theorem test_mraddr_gap :
    (next? (exec (.mraddr ⟨2, 2, 3⟩) calm)).map (·.result) = some (some 0x40018024)
      ∧ (next? (exec (.mraddr ⟨2, 3, 4⟩) calm)).map (·.result) = some (some 0x40018040) := by decide +kernel
theorem test_mraddr_channel_zero : faultOf (exec (.mraddr p1_21_0) calm) = some .channelZero := by decide +kernel
theorem test_mrrd_unwritten : faultOf (exec (.mrrd ⟨1, 18, 1⟩) calm) = some .readUnwritten := by decide +kernel

/-- V19b, for each setting of `MR_READ_SOURCE`: the candidates. -/
theorem test_mrrd_sources :
    let s (src : MrReadSource) : State :=
      { ((calm.setMr 1 400).requestLatch 1).boundary.setMr 1 350 with cfg := { defaultParams with mrReadSource := src } }
    (next? (exec (.mrrd ⟨1, 18, 1⟩) (s .staged))).map (·.result) = some (some 350)
      ∧ (next? (exec (.mrrd ⟨1, 18, 1⟩) (s .applied))).map (·.result) = some (some 400)
      ∧ (s .either).readCandidates 1 = [350, 400] := by decide +kernel

theorem test_bitidx_smallest : (next? (exec (.bitidx ⟨0, 5, 1⟩) calm)).map (·.result) = some (some 0) := by decide +kernel
theorem test_bitidx_largest : (next? (exec (.bitidx ⟨4, 31, 6⟩) calm)).map (·.result) = some (some 29) := by decide +kernel
theorem test_pinact_is_exact :
    (next? (exec (.pinact p1_21_3) (enabled3 0x4000))).map (·.result) = some (some 0)
      ∧ (next? (exec (.pinact p2_2_3) (enabled3 0x4000))).map (·.result) = some (some 1) := by decide +kernel
theorem test_chact_is_any_owner :
    (next? (exec (.chact p1_21_3) (enabled3 0x4000))).map (·.result) = some (some 1) := by decide +kernel
theorem test_chact_channel_zero :
    (next? (exec (.chact p1_21_0) (enabled3 0x4000))).map (·.result) = some (some 0) := by decide +kernel

/-! ## The registry (V25, V26, V27) and the handle write (V19a) -/

theorem test_markact : (next? (exec (.markact ⟨4, 0, 6⟩) calm)).map (·.active) = some 0x20000000 := by decide +kernel
theorem test_markact_channel_zero : faultOf (exec (.markact p1_21_0) calm) = some .channelZero := by decide +kernel
theorem test_markinact : (next? (exec (.markinact p1_21_3) (enabled3 0x108))).map (·.active) = some 0x8 := by decide +kernel
theorem test_mrwr_waits :
    (next? (exec (.mrwr ⟨2, 5, 6⟩ 7) calm)).map (fun s => (s.mr[6], s.ler[6], s.boundary.applied[6]))
      = some (some 7, false, none) := by decide +kernel

/-! ## The controller (V30, V32 to V47) -/

theorem test_init :
    (next? (exec (.init 0 1000) calm)).map (fun s => (s.pr, s.mr[0], s.ler[0], s.inited, s.pc))
      = some (some 0, some 999, true, true, 3) := by decide +kernel
theorem test_init_without_bias :
    (next? (exec (.init 0 1000) { calm with cfg := { defaultParams with initPeriodBias := 0 } })).map (·.mr[0])
      = some (some 1000) := by decide +kernel
theorem test_setper : (next? (exec (.setper 20000) calm)).map (fun s => (s.mr[0], s.ler[0])) = some (some 19999, true) := by
  decide +kernel
theorem test_setper_wraps : (next? (exec (.setper 0) calm)).map (·.mr[0]) = some (some 0xFFFFFFFF) := by decide +kernel
theorem test_setmatch_on_sentinel_port :
    (next? (exec (.setmatch ⟨0, 3, 2⟩ 9) ready)).map (fun s => (s.mr[2], s.ler[2], s.active)) = some (some 9, true, 0) := by
  decide +kernel
theorem test_setmatch_before_init : faultOf (exec (.setmatch p1_21_3 5) calm) = some .notInitialised := by decide +kernel
theorem test_attach :
    (next? (exec (.attach ⟨2, 0, 1⟩ 40) ready)).map (fun s => (s.mr[1], s.ler[1], s.active, s.ena[0], s.pinmux[2][0]))
      = some (some 40, true, 0x1000, true, some 1) := by decide +kernel
theorem test_attach_fault_priority :
    faultOf (exec (.attach p1_21_0 9) calm) = some .notInitialised
      ∧ faultOf (exec (.attach p1_21_0 9) ready) = some .channelZero
      ∧ faultOf (exec (.attach ⟨0, 3, 2⟩ 9) ready) = some .noPwmFeature := by decide +kernel
theorem test_detach_second_to_last_owner :
    (next? (exec (.detach p1_21_3) (enabled3 0x4100))).map (fun s => (s.active, s.ena[2])) = some (0x4000, true) := by
  decide +kernel
theorem test_detach_sole_owner :
    (next? (exec (.detach p2_2_3) (enabled3 0x4000))).map (fun s => (s.active, s.ena[2])) = some (0, false) := by
  decide +kernel

/-! ## The timer (V50, V52, R197) and the step -/

theorem test_boundary :
    let s := (((calm.setMr 0 999).setMr 3 500).requestLatch 0).requestLatch 3
    s.boundary.applied = #v[some 999, none, none, some 500, none, none, none]
      ∧ s.boundary.ler = Vector.replicate 7 false := by decide +kernel

/-- R197: a boundary between SETMATCH's two access steps does not adopt the new value. -/
theorem test_boundary_inside_setmatch :
    (next? (exec (.setmatch p2_2_3 250) { ready with timer := [true] })).map (fun s => (s.applied[3], s.ler[3]))
      = some (none, true) := by decide +kernel

/-- R197: the same boundary adopts it where a request was pending before. -/
theorem test_boundary_inside_setmatch_pending :
    (next? (exec (.setmatch p2_2_3 250) { ready.requestLatch 3 with timer := [true] })).map
      (fun s => (s.applied[3], s.ler[3])) = some (some 250, true) := by decide +kernel

theorem test_fault_halts_the_timer : (calm.raiseFault .channelZero).boundaryEnabled = false := by decide

/-- P4: ATTACH before INIT faults at pc 0, and everything else keeps its reset value. -/
theorem test_step_faults_in_place :
    let s : State := { State.reset with program := [0x3A93, 500, 1, 0, 1000] }
    next? (step s) = some { s with fault := some .notInitialised } := by decide +kernel

theorem test_step_refuses_aliased_pins :
    (loaded [0x3A95, 0x3195 ]).refusal? = some .aliasedPins := by decide +kernel

theorem test_fetch_word_runs_first :
    (next? (step (State.reset.withFetchWord 32 0x3A9A))).map (fun s => (s.result, s.pc)) = some (some 8, 1) := by
  decide +kernel

/-! ## Witnesses: a concrete state and operands that meet the hypotheses of each statement that has some -/

theorem witness_DecodeOfEncodeIsIdentity : (Instr.attach ⟨4, 31, 6⟩ 0xFFFFFFFF).wellFormed = true := by decide
theorem witness_OnlyEncodingsDecode : decode [0x6FC3, 5, 9] = .ok (.attach ⟨4, 31, 6⟩ 5, [9]) := rfl
theorem witness_IllegalWordsAreExactlyTheListed :
    (loaded [0x3A93]).refusal? = none ∧ (loaded [0x3A93]).fault = none
      ∧ (loaded [0x3A93]).resultReads.head? ≠ some (loaded [0x3A93]).pc
      ∧ (loaded [0x3A93]).pc < (loaded [0x3A93]).program.length
      ∧ decode ((loaded [0x3A93]).program.drop (loaded [0x3A93]).pc) = .error .operandMissing :=
  ⟨by decide +kernel, rfl, by decide, by decide, rfl⟩
theorem witness_EveryLegalPinIsATriple :
    (⟨4, 31, 6⟩ : Pin).wellFormed = true ∧ pinOf 4 31 6 = ⟨4, 31, 6⟩ ∧ pinOf 0 0 0 = ⟨0, 0, 0⟩ := by decide
theorem witness_ProgramPinsAreThoseOfItsCommands :
    ∀ i ∈ [Instr.init 0 1000, .attach p1_21_3 500, .detach p2_2_3], i.wellFormed = true := by decide
theorem witness_StepRunsTheDecodedCommand :
    (loaded [0x3A9A]).refusal? = none ∧ (loaded [0x3A9A]).fault = none
      ∧ (loaded [0x3A9A]).resultReads.head? ≠ some (loaded [0x3A9A]).pc
      ∧ (loaded [0x3A9A]).pc < (loaded [0x3A9A]).program.length
      ∧ decode ((loaded [0x3A9A]).program.drop (loaded [0x3A9A]).pc) = .ok (.bitidx p1_21_3, []) :=
  ⟨by decide +kernel, rfl, by decide, by decide, rfl⟩
/-- A completed run with its query made. -/
def done1 : State := { loaded [0x3A9A] with pc := 1, result := some 8 }
theorem witness_CompletedRunOnlyTurnsTheTimer :
    done1.refusal? = none ∧ Completed done1 ∧ done1.resultReads.head? ≠ some done1.pc := by decide +kernel
/-- A read of RESULT is due: after a query, and with RESULT still `none`. -/
def readDue : State := { done1 with resultReads := [1] }
def readDueUnwritten : State := { calm with resultReads := [0] }
theorem witness_CallerReadOfResult :
    readDue.refusal? = none ∧ readDue.fault = none ∧ readDue.resultReads.head? = some readDue.pc
      ∧ readDue.result = some 8 ∧ readDueUnwritten.refusal? = none ∧ readDueUnwritten.fault = none
      ∧ readDueUnwritten.resultReads.head? = some readDueUnwritten.pc ∧ readDueUnwritten.result = none := by decide +kernel
theorem witness_MachineRefusesExactly :
    (¬ LegalParams { defaultParams with highOffset := 0x18 })
      ∧ ({ calm with unserialised := [[0x3A95]] } : State).refusal? = some .unserialisedCallers
      ∧ p1_21_3 ∈ programPins [0x3A95, 0x3195] ∧ ⟨1, 3, 3⟩ ∈ programPins [0x3A95, 0x3195] :=
  ⟨fun h => absurd h.highAboveLow (by decide), by decide +kernel, by decide +kernel, by decide +kernel⟩
/-- R8: the defaults meet every condition, and each of these sets fails one, in the order (a) to (h) and log entry 11. -/
theorem witness_AcceptedParameterSets :
    paramsAccepted defaultParams = true
      ∧ ([{ defaultParams with highOffset := 0x18 }, { defaultParams with prOffset := 0x4C },
          { defaultParams with enaBit := #v[9, 9, 11, 12, 13, 14] }, { defaultParams with lerBit := #v[0, 1, 2, 3, 4, 5, 0] },
          { defaultParams with periodIndex := 1 }, { defaultParams with featureTable := #v[-2, 2, 1, 3, -1] },
          { defaultParams with lerOffset := 0x52 }, { defaultParams with base := 0xFFFFFFC0 },
          { defaultParams with featureTable := #v[1, 2, 1, 3, 0], featureSentinel := 0 },
          { defaultParams with pinBits := 4 }] : List Params).all (fun p => !paramsAccepted p) = true :=
  ⟨defaultParams_accepted, by decide +kernel⟩
theorem witness_StepKeepsArgumentsOfTheRun : (next? (step (loaded [0x3A9A]))).isSome = true := by decide +kernel
theorem witness_CommandPointerAdvancesByLength :
    (next? (exec (.init 0 1000) calm)).map (·.fault) = some none
      ∧ (next? (exec (.detach p1_21_0) calm)).map (·.fault) = some (some .channelZero) := by decide +kernel
theorem witness_FaultedStateHasNoStep : (calm.raiseFault .noPwmFeature).fault = some .noPwmFeature := rfl
theorem witness_TakingAFaultKeepsEverythingElse :
    faultOf (exec (.attach ⟨0, 3, 2⟩ 9) ready) = some .noPwmFeature := by decide +kernel
theorem witness_FirstFailingCheckIsReported : paramsAccepted calm.cfg = true ∧ calm.fault = none :=
  ⟨defaultParams_accepted, rfl⟩
theorem witness_FeatReportsThePortsCode :
    calm.fault = none ∧ (⟨5, 0, 0⟩ : Pin).wellFormed = false := by decide
theorem witness_MraddrReportsTheAddress :
    calm.fault = none ∧ (⟨7, 31, 6⟩ : Pin).wellFormed = false := by decide
theorem witness_MrrdReadsACandidate :
    paramsAccepted (calm.setMr 6 7).cfg = true ∧ (calm.setMr 6 7).fault = none
      ∧ (calm.setMr 6 7).mr[(5 : Channel).succ] = some 7 ∧ (calm.setMr 6 7).mr[(0 : Channel).succ] = none :=
  ⟨defaultParams_accepted, rfl, by decide, by decide⟩
theorem witness_BitidxReportsTheBitIndex : calm.fault = none ∧ (⟨0, 0, 7⟩ : Pin).wellFormed = false := by decide
theorem witness_PinactReportsThisPin : (enabled3 0x4000).fault = none ∧ (⟨5, 0, 1⟩ : Pin).wellFormed = false := by decide
theorem witness_ChactReportsAnyOwner : (enabled3 0x4000).fault = none ∧ (⟨6, 0, 1⟩ : Pin).wellFormed = false := by decide
theorem witness_MarkactSetsOneBit :
    ready.fault = none ∧ (⟨1, 0, 7⟩ : Pin).wellFormed = false ∧ ready.ena[(5 : Channel)] = false
      ∧ (next? (exec (.markact (pinOf 4 0 (5 : Channel).succ)) ready)).isSome = true := by decide +kernel
theorem witness_MarkinactClearsOneBit :
    (enabled3 0x100).fault = none ∧ (⟨5, 0, 7⟩ : Pin).wellFormed = false ∧ (enabled3 0x100).ena[(2 : Channel)] = true
      ∧ (∀ p : Fin 5, p ≠ 1 → (enabled3 0x100).active.getLsbD (p.val * 6 + 2) = false)
      ∧ (next? (exec (.markinact (pinOf 1 21 (2 : Channel).succ)) (enabled3 0x100))).isSome = true := by decide +kernel
theorem witness_RegistryLaws :
    pinActive 0x20000000 ⟨4, 0, some 5⟩ = true ∧ ready.active.getLsbD (bitIndex 4 5) = false
      ∧ ((next? (exec (.markact (pinOf 4 0 (5 : Channel).succ)) ready)).bind
          fun t => next? (exec (.markinact (pinOf 4 0 (5 : Channel).succ)) t.timerTurn)).isSome = true := by decide +kernel
theorem witness_BitIndexOfPortAndChannel :
    bitIndex 1 2 = bitIndex 1 2 ∧ ready.fault = none ∧ ready.inited = true := by decide
theorem witness_ActivityOfPinAndChannel :
    pinActive 0x4000 ⟨2, 2, some 2⟩ = true ∧ pinActive 0x4000 ⟨1, 21, some 2⟩ = false
      ∧ channelActive 0x4000 ⟨1, 21, some 2⟩ = true := by decide
theorem witness_ChannelMaskTable : (0 : Channel) ≠ 5 := by decide
theorem witness_ChannelStateIsDerived :
    EnableTracksOwners (enabled3 0x4000) ∧ channelState (enabled3 0x4000) 2 = .active
      ∧ channelState (enabled3 0x4000) 5 ≠ .active := by decide +kernel
theorem witness_MrwrStagesWithoutLatch :
    paramsAccepted calm.cfg = true ∧ calm.fault = none ∧ (⟨5, 0, 1⟩ : Pin).wellFormed = false :=
  ⟨defaultParams_accepted, rfl, by decide⟩
/-- A request on a register that holds 7 is pending, and the timer's next choices are these. -/
def pending (i : Fin 7) (choices : List Bool) : State :=
  { (ready.setMr i 7).requestLatch i with timer := choices ++ ready.timer }
theorem witness_InitProgramsPrescaleAndPeriod :
    paramsAccepted calm.cfg = true ∧ calm.fault = none ∧ QuietFor 2 calm ∧ calm.ler[(0 : Fin 7)] = false
      ∧ (pending 0 [true]).ler[(0 : Fin 7)] = true ∧ (pending 0 [true]).boundaryAt 0 = true
      ∧ (pending 0 [false, true]).boundaryAt 0 = false ∧ (pending 0 [false, true]).boundaryAt 1 = true :=
  ⟨defaultParams_accepted, by decide⟩
theorem witness_SetperWritesPeriodLessOne :
    paramsAccepted calm.cfg = true ∧ calm.fault = none ∧ QuietFor 1 calm
      ∧ ((pending 0 [true]).ler[(0 : Fin 7)] && (pending 0 [true]).boundaryAt 0) = true :=
  ⟨defaultParams_accepted, by decide⟩
theorem witness_SetmatchStagesAndRequestsLatch :
    paramsAccepted ready.cfg = true ∧ ready.fault = none ∧ ready.inited = true ∧ QuietFor 1 ready
      ∧ paramsAccepted calm.cfg = true ∧ calm.fault = none ∧ calm.inited = false ∧ (⟨5, 0, 1⟩ : Pin).wellFormed = false
      ∧ (pending 6 [true]).inited = true ∧ ((pending 6 [true]).ler[(6 : Fin 7)] && (pending 6 [true]).boundaryAt 0) = true :=
  ⟨defaultParams_accepted, rfl, rfl, by decide, defaultParams_accepted, rfl, rfl, by decide⟩
theorem witness_AttachTakesOwnershipAndSelectsThePin :
    paramsAccepted ready.cfg = true ∧ ready.fault = none ∧ ready.inited = true
      ∧ ready.cfg.featureTable[(1 : Fin 5)].msb = false ∧ QuietFor 4 ready
      ∧ ready.cfg.featureTable[(4 : Fin 5)].msb = true ∧ calm.inited = false ∧ (⟨5, 0, 7⟩ : Pin).wellFormed = false
      ∧ ((pending 3 [true]).ler[(3 : Fin 7)] && (pending 3 [true]).boundaryAt 0) = true
      ∧ ((pending 3 [false, false, false, true]).active &&& chmask 2 == 0
          && (pending 3 [false, false, false, true]).boundaryAt 3) = true :=
  ⟨defaultParams_accepted, rfl, rfl, by decide, by decide, by decide, rfl, by decide⟩
theorem witness_DetachReleasesOwnership :
    (enabled3 0x4100).fault = none ∧ QuietFor 1 (enabled3 0x4100) ∧ (⟨5, 0, 7⟩ : Pin).wellFormed = false
      ∧ (enabled3 0x4100).active &&& ~~~ (1#32 <<< (1 * 6 + 2)) &&& chmask 2 ≠ 0 := by decide +kernel
theorem witness_AttachedPinIsDriving :
    paramsAccepted ready.cfg = true ∧ ready.fault = none ∧ ready.inited = true
      ∧ ready.cfg.featureTable[(3 : Fin 5)].msb = false ∧ EnableTracksOwners ready :=
  ⟨defaultParams_accepted, rfl, rfl, by decide, by decide +kernel⟩
theorem witness_AccessStepCounts :
    (next? (exec (.attach p1_21_3 500) ready)).map (fun t => (t.fault, t.timer.length)) = some (none, 4)
      ∧ (next? (exec (.attach p1_21_3 500) (enabled3 0x4000))).map (fun t => (t.fault, t.timer.length)) = some (none, 5)
      ∧ (next? (exec (.detach p2_2_3) (enabled3 0x4000))).map (fun t => (t.fault, t.timer.length)) = some (none, 7)
      ∧ (next? (exec (.detach p2_2_3) (enabled3 0x4100))).map (fun t => (t.fault, t.timer.length)) = some (none, 8)
      ∧ (next? (exec (.detach p1_21_0) ready)).map (fun t => (t.fault, t.timer.length)) = some (some .channelZero, 8) := by
  decide +kernel
theorem witness_NextBoundaryAppliesTheWrittenValue :
    paramsAccepted ready.cfg = true
      ∧ (next? (exec (.init 0 1000) ready)).map (·.fault) = some none
      ∧ (next? (exec (.setper 1000) ready)).map (·.fault) = some none
      ∧ (next? (exec (.setmatch ⟨4, 0, 6⟩ 5) ready)).map (·.fault) = some none
      ∧ (next? (exec (.attach p1_21_3 5) ready)).map (·.fault) = some none
      ∧ (next? (exec (.mrwr p1_21_3 5) ready)).map (·.fault) = some none :=
  ⟨defaultParams_accepted, by decide +kernel, by decide +kernel, by decide +kernel, by decide +kernel, by decide +kernel⟩
theorem witness_LastWriteWins :
    paramsAccepted ready.cfg = true
      ∧ (((next? (exec (.setmatch (pinOf 1 18 (0 : Channel).succ) 300) ready)).bind
          fun t => next? (exec (.attach (pinOf 2 0 (0 : Channel).succ) 400) t.timerTurn)).map (·.fault)) = some none :=
  ⟨defaultParams_accepted, by decide +kernel⟩
theorem witness_WritersOfEachRegister :
    paramsAccepted ready.cfg = true
      ∧ (next? (exec (.bitidx p1_21_3) ready)).map (fun t => decide (t.result ≠ ready.result)) = some true
      ∧ (next? (exec (.attach p1_21_3 500) ready)).map
          (fun t => (decide (t.active ≠ ready.active), decide (t.ena ≠ ready.ena), decide (t.pinmux ≠ ready.pinmux)))
        = some (true, true, true)
      ∧ (next? (exec (.init 4 20000) ready)).map
          (fun t => (decide (t.pr ≠ ready.pr), decide (t.mr[(0 : Fin 7)] ≠ ready.mr[(0 : Fin 7)]))) = some (true, true) :=
  ⟨defaultParams_accepted, by decide +kernel, by decide +kernel, by decide +kernel⟩
theorem witness_DirectRegistryUseHazards :
    (ready.active &&& chmask 2 = 0 ∧ ready.ena[(2 : Channel)] = false
      ∧ ((next? (exec (.markact (pinOf 2 2 (2 : Channel).succ)) ready)).bind
          fun t => next? (exec (.attach (pinOf 1 21 (2 : Channel).succ) 10) t.timerTurn)).map (·.fault) = some none)
    ∧ (enabled3 0x100).ena[(2 : Channel)] = true
      ∧ (∀ r : Fin 5, r ≠ 1 → (enabled3 0x100).active.getLsbD (r.val * 6 + 2) = false)
      ∧ ((next? (exec (.markinact (pinOf 1 21 (2 : Channel).succ)) (enabled3 0x100))).bind
          fun t => next? (exec (.detach (pinOf 2 2 (2 : Channel).succ)) t.timerTurn)).isSome = true := by decide +kernel
/-- Both owners of channel 3 attached, as in program P2. -/
def shared3 : State := (enabled3 0x4100).setPinmux 1 21 2
theorem witness_DetachedPinKeepsDriving :
    shared3.fault = none ∧ driving shared3 ⟨1, 21, some 2⟩ = true ∧ (2 : Fin 5) ≠ 1
      ∧ shared3.active.getLsbD (2 * 6 + 2) = true := by decide +kernel
theorem witness_BoundaryAdoptsPendingValues :
    (∀ i : Fin 7, calm.ler[i] = false) ∧ calm.cfg.timerRunning = true ∧ calm.fault = none := by decide
theorem witness_AppliedChangesOnlyByRequest :
    let s : State := { loaded [0x3A93, 500] with inited := true, timer := [false, false, true] }
    ((next? (step s)).map fun t => (decide (t.applied[(3 : Fin 7)] = s.applied[(3 : Fin 7)]), s.ler[(3 : Fin 7)]))
      = some (false, false) := by decide +kernel
theorem witness_EndStatesOfACompletedRun : Completed done1 ∧ done1.cfg.timerRunning = true := by decide
theorem witness_PendingLatchesAreConsumed :
    let s := (done1.setMr 3 500).requestLatch 3
    s.refusal? = none ∧ Completed s ∧ s.resultReads.head? ≠ some s.pc ∧ s.cfg.timerRunning = true
      ∧ s.ler[(3 : Fin 7)] = true := by decide +kernel
theorem witness_StoppedTimerAppliesNothing :
    let s : State := ((loaded [0x3A9A]).setMr 3 500).requestLatch 3
    let s : State := { s with cfg := { defaultParams with timerRunning := false } }
    s.cfg.timerRunning = false ∧ (next? (step s)).isSome = true ∧ s.ler[(3 : Fin 7)] = true := by decide +kernel
theorem witness_AddressResolution :
    paramsAccepted defaultParams = true ∧ regOf defaultParams 0x40018028 = .unmapped :=
  ⟨defaultParams_accepted, by decide +kernel⟩
theorem witness_RegisterAddressesAlignedAndUnwrapped : paramsAccepted defaultParams = true := defaultParams_accepted
theorem witness_SingleBitAccessesChangeOneBit : paramsAccepted (enabled3 0x100).cfg = true := defaultParams_accepted
theorem witness_CommandsStoreOnlyTheirRegisters :
    paramsAccepted ready.cfg = true
      ∧ (next? (exec (.attach p1_21_3 500) ready)).isSome = true ∧ mrAddr ready.cfg 4 ≠ mrAddr ready.cfg 3
      ∧ mrAddr ready.cfg 4 ≠ lerAddr ready.cfg ∧ mrAddr ready.cfg 4 ≠ pcrAddr ready.cfg
      ∧ (next? (exec (.init 0 1000) ready)).isSome = true ∧ (next? (exec (.setper 1000) ready)).isSome = true
      ∧ (next? (exec (.setmatch p1_21_3 5) ready)).isSome = true ∧ (next? (exec (.detach p1_21_3) ready)).isSome = true
      ∧ (next? (exec (.mrwr p1_21_3 5) ready)).isSome = true :=
  ⟨defaultParams_accepted, by decide +kernel, by decide +kernel, by decide +kernel, by decide +kernel, by decide +kernel,
    by decide +kernel, by decide +kernel, by decide +kernel, by decide +kernel⟩
theorem witness_HandleWriteStoresLittleEndian :
    paramsAccepted calm.cfg = true ∧ calm.fault = none
      ∧ (next? (exec (.mrwr (pinOf 2 5 (5 : Channel).succ) 7) calm)).isSome = true ∧ 3 < 4 :=
  ⟨defaultParams_accepted, rfl, by decide +kernel, by decide⟩
theorem witness_CommandsKeepEnableTracksOwners :
    EnableTracksOwners ready ∧ (∀ p, Instr.attach p1_21_3 5 ≠ .markact p ∧ Instr.attach p1_21_3 5 ≠ .markinact p)
      ∧ (next? (exec (.attach p1_21_3 5) ready)).isSome = true ∧ paramsAccepted ready.cfg = true ∧ ready.fault = none
      ∧ ready.inited = true ∧ (1 : Fin 5) ≠ 2 ∧ ready.cfg.featureTable[(1 : Fin 5)].msb = false
      ∧ ready.cfg.featureTable[(2 : Fin 5)].msb = false :=
  ⟨by decide +kernel, fun _ => ⟨by simp, by simp⟩, by decide +kernel, defaultParams_accepted, rfl, rfl, by decide,
    by decide, by decide⟩
theorem witness_StepsKeepEnableTracksOwners :
    EnableTracksOwners (loaded [0x3A95])
      ∧ (∀ p, (loaded [0x3A95]).callerAction ≠ .issue (.markact p) ∧ (loaded [0x3A95]).callerAction ≠ .issue (.markinact p))
      ∧ (next? (step (loaded [0x3A95]))).isSome = true := by
  have h : (loaded [0x3A95]).callerAction = .issue (.detach p1_21_3) := by decide +kernel
  exact ⟨by decide +kernel, fun _ => by rw [h]; simp, by decide +kernel⟩
theorem witness_StepsKeepTheMachineInvariant :
    TopBitsClear (loaded [0x3A95]) ∧ LatchedIsStaged (loaded [0x3A95]) ∧ AppliedIsStaged (loaded [0x3A95])
      ∧ PcInProgram (loaded [0x3A95]) ∧ (next? (step (loaded [0x3A95]))).isSome = true := by decide +kernel

end Sys2Proof.Tests
end

section
/-!
PROOFS of 00_scope.md. That a parameter set is accepted exactly if it meets R8 as `LegalParams` writes it out, and that the
machine refuses a program exactly for the reasons of R8, R182 and R202: no command's meaning is a refusal.
-/

namespace Sys2Proof.Machine

open Sys2Proof

/-! ## The parameter sets of R8 -/

section
variable {p : Params}

/-- The checker reads a feature code's sign off its top bit (R10). -/
theorem msb_eq_true_iff_toInt_neg {n : Nat} (w : BitVec n) : w.msb = true ↔ w.toInt < 0 := by
  rw [BitVec.msb_eq_toInt, decide_eq_true_iff]

theorem msb_eq_false_iff_toInt_nonneg {n : Nat} (w : BitVec n) : w.msb = false ↔ 0 ≤ w.toInt := by
  rw [BitVec.msb_eq_toInt, decide_eq_false_iff_not, not_lt]

/-- The converse of `enaBit_injective` and `lerBit_injective`, for any vector. -/
theorem vector_toList_nodup {α : Type} {n : Nat} {v : Vector α n} (h : ∀ i j : Fin n, v[i] = v[j] → i = j) :
    v.toList.Nodup := by
  rw [List.nodup_iff_injective_get]
  intro i j e
  have hi : i.val < n := by simpa using i.isLt
  have hj : j.val < n := by simpa using j.isLt
  have hij := h ⟨i, hi⟩ ⟨j, hj⟩ (by simpa using e)
  exact Fin.ext (by simpa using hij)

/-- R8(b) for the ten addresses, from its three parts: the match registers, PR with PCR and LER, and one of each. -/
theorem regAddrs_nodup_of_distinct (hm : ∀ i j : Fin 7, i ≠ j → mrAddr p i ≠ mrAddr p j)
    (hf : [prAddr p, pcrAddr p, lerAddr p].Nodup)
    (hmf : ∀ i : Fin 7, ∀ a ∈ [prAddr p, pcrAddr p, lerAddr p], mrAddr p i ≠ a) : (regAddrs p).Nodup := by
  have hmap : (regIndices.map (mrAddr p)).Nodup :=
    (by decide : regIndices.Nodup).map fun i j e => not_imp_not.mp (hm i j) e
  refine List.nodup_append.mpr ⟨hmap, hf, fun a ha b hb => ?_⟩
  obtain ⟨i, -, rfl⟩ := List.mem_map.mp ha
  exact hmf i b hb

/-- R8(h), as the checker lists the sums and as `LegalParams` quantifies over them. -/
theorem addressSums_all_iff :
    ((addressSums p).all fun n => decide (n < 2 ^ 32)) = true ↔
      (∀ i : Fin 7, p.base.toNat + (runOffset p i).toNat + 4 * i.val < 2 ^ 32)
        ∧ ∀ offset ∈ [p.prOffset, p.pcrOffset, p.lerOffset], p.base.toNat + offset.toNat < 2 ^ 32 := by
  simp [addressSums, List.all_append, List.all_map, mem_regIndices]

theorem addressParams_all_iff :
    ((addressParams p).all fun w => w.toNat % 4 == 0) = true ↔
      ∀ w ∈ [p.base, p.lowOffset, p.highOffset, p.prOffset, p.pcrOffset, p.lerOffset], w.toNat % 4 = 0 := by
  simp [addressParams]

theorem legalParams_of_accepted (h : paramsAccepted p = true) : LegalParams p := by
  obtain ⟨ha, -, -, -, he, hf, hg, hh, hneg, hbits⟩ := conditions_of_accepted h
  obtain ⟨hmatch, hfixed⟩ := addressSums_all_iff.mp hh
  have hdistinct := fixed_nodup h
  constructor
  case highAboveLow => exact ha
  case matchDistinct => exact fun i j hne e => hne (mrAddr_injective h e)
  case matchNotFixed =>
    exact fun i offset ho e =>
      mem_fixed_ne_mrAddr h (List.mem_map_of_mem (f := (p.base + ·)) ho) i e.symm
  case fixedDistinct => simpa [and_assoc, prAddr, pcrAddr, lerAddr] using hdistinct
  case enaBitInjective => exact fun c d => enaBit_injective h
  case lerBitInjective => exact fun i j => lerBit_injective h
  case periodIndexZero => exact he
  case featureOrSentinel => exact fun port => (hf port).imp_left (msb_eq_false_iff_toInt_nonneg _).mp
  case aligned => exact addressParams_all_iff.mp hg
  case matchNoWrap => exact hmatch
  case fixedNoWrap => exact hfixed
  case sentinelNegative => exact (msb_eq_true_iff_toInt_neg _).mp hneg
  case pinBitsFive => exact hbits

theorem accepted_of_legalParams (h : LegalParams p) : paramsAccepted p = true := by
  have hfixed : [prAddr p, pcrAddr p, lerAddr p].Nodup := by
    simpa [and_assoc, prAddr, pcrAddr, lerAddr] using h.fixedDistinct
  have hmatchFixed : ∀ i : Fin 7, ∀ a ∈ [prAddr p, pcrAddr p, lerAddr p], mrAddr p i ≠ a := fun i a ha => by
    obtain ⟨offset, ho, rfl⟩ : ∃ offset ∈ [p.prOffset, p.pcrOffset, p.lerOffset], p.base + offset = a :=
      List.mem_map.mp ha
    exact h.matchNotFixed i offset ho
  exact decide_eq_true
    ⟨h.highAboveLow, regAddrs_nodup_of_distinct h.matchDistinct hfixed hmatchFixed, vector_toList_nodup h.enaBitInjective,
      vector_toList_nodup h.lerBitInjective, h.periodIndexZero,
      fun port => (h.featureOrSentinel port).imp_left (msb_eq_false_iff_toInt_nonneg _).mpr,
      addressParams_all_iff.mpr h.aligned, addressSums_all_iff.mpr ⟨h.matchNoWrap, h.fixedNoWrap⟩,
      (msb_eq_true_iff_toInt_neg _).mpr h.sentinelNegative, h.pinBitsFive⟩

/-- R8: the checker accepts exactly the parameter sets that meet the conditions as they are written out. -/
theorem paramsAccepted_iff_legalParams : paramsAccepted p = true ↔ LegalParams p :=
  ⟨legalParams_of_accepted, accepted_of_legalParams⟩

end

/-! ## No command's meaning is a refusal -/

/-- The outcome is a next state or a fault. -/
def NotRefused (o : Result) : Prop := ∀ r, o ≠ .refused r

section
variable {s : State} {k : Result}

@[simp] theorem notRefused_next (t : State) : NotRefused (.next t) := nofun

@[simp] theorem notRefused_fault (f : Fault) : NotRefused (.fault f) := nofun

theorem andThen_notRefused {o : Result} {k : State → Result} (ho : NotRefused o) (hk : ∀ t, NotRefused (k t)) :
    NotRefused (andThen o k) := by
  cases o with
  | next t => exact hk t
  | fault f => exact notRefused_fault f
  | refused r => exact absurd rfl (ho r)

theorem busWrite_notRefused (a v : Word) : NotRefused (s.busWrite a v) := by
  unfold State.busWrite
  split <;> simp

theorem busRead_notRefused {a : Word} {k : Word → State → Result} (hk : ∀ v t, NotRefused (k v t)) :
    NotRefused (s.busRead a k) := by
  unfold State.busRead
  split
  · split
    · exact hk _ _
    · exact notRefused_next _
  all_goals exact notRefused_fault _

theorem stageAndLatch_notRefused {i : Fin 7} {v : Word} {k : State → Result} (hk : ∀ t, NotRefused (k t)) :
    NotRefused (s.stageAndLatch i v k) :=
  andThen_notRefused (busWrite_notRefused _ _) fun _ => hk _

theorem issue_notRefused (hk : NotRefused k) : NotRefused (s.issue k) := by
  unfold State.issue
  split
  · exact notRefused_fault _
  · exact hk

theorem issuePin_notRefused {pin : Pin} {k : PhysPin → Result} (hk : ∀ q, NotRefused (k q)) :
    NotRefused (s.issuePin pin k) := by
  refine issue_notRefused ?_
  split
  · exact notRefused_next _
  · exact hk _

theorem requireInited_notRefused (hk : NotRefused k) : NotRefused (s.requireInited k) := by
  unfold State.requireInited
  split
  · exact hk
  · exact notRefused_next _

theorem requireChannel_notRefused {q : PhysPin} {k : Channel → Result} (hk : ∀ c, NotRefused (k c)) :
    NotRefused (s.requireChannel q k) := by
  unfold State.requireChannel
  split
  · exact notRefused_next _
  · exact hk _

theorem requireFeature_notRefused {q : PhysPin} (hk : NotRefused k) : NotRefused (s.requireFeature q k) := by
  unfold State.requireFeature
  split
  · exact notRefused_next _
  · exact hk

theorem requireStaged_notRefused {i : Fin 7} (hk : NotRefused k) : NotRefused (s.requireStaged i k) := by
  unfold State.requireStaged
  split
  · exact notRefused_next _
  · exact hk

/-- A pin command that needs a channel. -/
theorem issuePin_requireChannel_notRefused {pin : Pin} {k : PhysPin → Channel → Result} (hk : ∀ q c, NotRefused (k q c)) :
    NotRefused (s.issuePin pin fun q => s.requireChannel q (k q)) :=
  issuePin_notRefused fun q => requireChannel_notRefused (hk q)

/-- R185: every command of R74 has a meaning in every state. -/
theorem exec_notRefused (i : Instr) (s : State) : NotRefused (exec i s) := by
  cases i with
  | init prescale period =>
    exact issue_notRefused <| andThen_notRefused (busWrite_notRefused _ _) fun _ =>
      stageAndLatch_notRefused fun _ => notRefused_next _
  | setper period => exact issue_notRefused <| stageAndLatch_notRefused fun _ => notRefused_next _
  | attach pin value =>
    exact issuePin_notRefused fun _ => requireInited_notRefused <| requireChannel_notRefused fun _ =>
      requireFeature_notRefused <| stageAndLatch_notRefused fun _ => notRefused_next _
  | setmatch pin value =>
    exact issuePin_notRefused fun _ => requireInited_notRefused <| requireChannel_notRefused fun _ =>
      stageAndLatch_notRefused fun _ => notRefused_next _
  | mrrd pin =>
    exact issuePin_requireChannel_notRefused fun _ _ => requireStaged_notRefused <|
      busRead_notRefused fun _ _ => notRefused_next _
  | mrwr pin value =>
    exact issuePin_requireChannel_notRefused fun _ _ =>
      andThen_notRefused (busWrite_notRefused _ _) fun _ => notRefused_next _
  | pinact pin | chact pin | feat pin => exact issuePin_notRefused fun _ => notRefused_next _
  | detach pin | mraddr pin | bitidx pin | markact pin | markinact pin =>
    exact issuePin_requireChannel_notRefused fun _ _ => notRefused_next _

theorem callerTurn_notRefused (s : State) : NotRefused (callerTurn s) := by
  unfold callerTurn
  split
  · exact notRefused_next _
  · exact notRefused_next _
  · exact notRefused_next _
  · exact exec_notRefused _ _

/-! ## What the machine refuses -/

/-- A step is a refusal exactly where `refusal?` names a reason. -/
theorem step_refused_iff (s : State) : (∃ r, step s = .refused r) ↔ s.refusal? ≠ none := by
  constructor
  · rintro ⟨r, h⟩ hnone
    cases hf : s.fault with
    | none => exact callerTurn_notRefused s.timerTurn r (step_of_running hnone hf ▸ h)
    | some code => simp [step, hnone, hf] at h
  · intro h
    obtain ⟨r, hr⟩ := Option.ne_none_iff_exists'.mp h
    exact ⟨r, by simp [step, hr]⟩

theorem hasUnserialised_iff (s : State) : s.hasUnserialised = true ↔ ∃ ws ∈ s.unserialised, ws ≠ [] := by
  simp [State.hasUnserialised]

end

theorem aliases_iff (p q : Pin) :
    p.aliases q = true ↔ p.port = q.port ∧ p.chan = q.chan ∧ p.chan ≠ 0 ∧ p.pinno ≠ q.pinno := by
  simp [Pin.aliases, and_assoc]

theorem namesAliasedPins_iff (ws : List Word) :
    namesAliasedPins ws = true ↔ ∃ p ∈ programPins ws, ∃ q ∈ programPins ws,
      p.port = q.port ∧ p.chan = q.chan ∧ p.chan ≠ 0 ∧ p.pinno ≠ q.pinno := by
  simp only [namesAliasedPins, List.any_eq_true, aliases_iff]

/-- Settles O10: each condition of the checker is the one R8 writes out. -/
theorem acceptedParameterSets : Obligations.AcceptedParameterSets := fun _ => paramsAccepted_iff_legalParams

/-- Settles O11: only `refusal?` refuses, and its three tests are the three reasons. -/
theorem machineRefusesExactly : Obligations.MachineRefusesExactly := by
  intro s
  rw [step_refused_iff, ne_eq, refusal_none_iff, ← paramsAccepted_iff_legalParams, ← hasUnserialised_iff,
    ← namesAliasedPins_iff]
  simp only [not_and_or, Bool.not_eq_false]

end Sys2Proof.Machine
end

section
/-!
PROOFS of 10_state.md. `exec_next` says once what a command that answers a next state has done (`TookFault` or `Completes`),
`step_does` what a step has done; each invariant of the family (R21, R26, R28, R35, R36, R38, R160) is then a case split over
them. No parameter set is assumed in `Completes`: `u` and `w` are what the register access layer made of a write.
-/

namespace Sys2Proof.Machine

open Sys2Proof

/-- The six queries of R22. -/
def IsQuery (i : Instr) : Prop :=
  match i with
  | .bitidx _ | .pinact _ | .chact _ | .feat _ | .mraddr _ | .mrrd _ => True
  | _ => False

/-- The state ATTACH has reached after its first two access steps and the timer's turn before the third, where `u` is the
state its bus write left. -/
def latched (u : State) (r : Fin 7) : State := (u.timerTurn.requestLatch r).timerTurn

/-- The timer's turn before an access that is performed only where `skip` is false. -/
def State.turnUnless (s : State) (skip : Bool) : State := if skip then s else s.timerTurn

/-- What ATTACH makes of a state from its third access step on: the mark, the enable bit of an Idle channel, the pin's
function. The timer has a turn before s5, and one before s4 where s4 is performed. -/
def attached (s : State) (port : Fin 5) (n : Fin 32) (c : Channel) (code : FeatureCode) : State :=
  { s.timerTurn.turnUnless (channelOwned s.active c) with
    active := s.active ||| bit (bitIndex port c)
    ena := if channelOwned s.active c then s.ena else s.ena.set c true
    pinmux := s.pinmux.set port (s.pinmux[port].set n (some code))
    pc := s.pc + 2 }

/-- What DETACH makes of a state. The timer has a turn before s2 where s2 is performed. -/
def detached (s : State) (port : Fin 5) (c : Channel) : State :=
  let after := s.active &&& ~~~ bit (bitIndex port c)
  { s.turnUnless (channelOwned after c) with
    active := after
    ena := if channelOwned after c then s.ena else s.ena.set c false
    pc := s.pc + 1 }

/-- What a command that answers a next state without a fault has done. -/
inductive Completes : Instr → State → State → Prop
  | query {i : Instr} {s : State} (hi : IsQuery i) (v : Word) (draws : Nat) :
      Completes i s { s with result := some v, pc := s.pc + 1, draws := draws }
  | markact {pin : Pin} {s : State} (port : Fin 5) (c : Channel) : Completes (.markact pin) s ((s.markActive port c).advance 1)
  | markinact {pin : Pin} {s : State} (port : Fin 5) (c : Channel) : Completes (.markinact pin) s ((s.markInactive port c).advance 1)
  | mrwr {pin : Pin} {v : Word} {s u : State} (c : Channel) (hu : s.busWrite (mrAddr s.cfg (channelReg c)) v = .next u) :
      Completes (.mrwr pin v) s (u.advance 2)
  | init {prescale period : Word} {s u w : State} (hu : s.busWrite (prAddr s.cfg) prescale = .next u)
      (hw : u.timerTurn.busWrite (mrAddr u.timerTurn.cfg periodReg) (initPeriodValue s.cfg period) = .next w) :
      Completes (.init prescale period) s ((w.timerTurn.requestLatch periodReg).setInited.advance 3)
  | setper {period : Word} {s u : State} (hu : s.busWrite (mrAddr s.cfg periodReg) (setperPeriodValue period) = .next u) :
      Completes (.setper period) s ((u.timerTurn.requestLatch periodReg).advance 2)
  | setmatch {pin : Pin} {v : Word} {s u : State} (c : Channel) (hu : s.busWrite (mrAddr s.cfg (channelReg c)) v = .next u) :
      Completes (.setmatch pin v) s ((u.timerTurn.requestLatch (channelReg c)).advance 2)
  | attach {pin : Pin} {v : Word} {s u : State} (port : Fin 5) (n : Fin 32) (c : Channel)
      (hc : pin.chan.toNat = (channelReg c).val) (hu : s.busWrite (mrAddr s.cfg (channelReg c)) v = .next u) :
      Completes (.attach pin v) s (attached (latched u (channelReg c)) port n c (featureCode s.cfg port))
  | detach {pin : Pin} {s : State} (port : Fin 5) (c : Channel) : Completes (.detach pin) s (detached s port c)

section
variable {s t u : State} {i : Instr}

/-! ## The timer's turn before an access that is not always performed -/

theorem State.turnUnless_eq (skip : Bool) :
    s.turnUnless skip = { s with
      applied := (s.turnUnless skip).applied
      ler := (s.turnUnless skip).ler
      timer := (s.turnUnless skip).timer } := by
  cases skip
  · simp only [State.turnUnless, Bool.false_eq_true, if_false, State.timerTurn_timer]
    exact timerTurn_eq s
  · rfl

@[simp] theorem State.turnUnless_cfg (skip : Bool) : (s.turnUnless skip).cfg = s.cfg := by
  rw [State.turnUnless_eq]
@[simp] theorem State.turnUnless_program (skip : Bool) : (s.turnUnless skip).program = s.program := by
  rw [State.turnUnless_eq]
@[simp] theorem State.turnUnless_unserialised (skip : Bool) : (s.turnUnless skip).unserialised = s.unserialised := by
  rw [State.turnUnless_eq]
@[simp] theorem State.turnUnless_pc (skip : Bool) : (s.turnUnless skip).pc = s.pc := by
  rw [State.turnUnless_eq]
@[simp] theorem State.turnUnless_result (skip : Bool) : (s.turnUnless skip).result = s.result := by
  rw [State.turnUnless_eq]
@[simp] theorem State.turnUnless_mr (skip : Bool) : (s.turnUnless skip).mr = s.mr := by
  rw [State.turnUnless_eq]
@[simp] theorem State.turnUnless_pcrOther (skip : Bool) : (s.turnUnless skip).pcrOther = s.pcrOther := by
  rw [State.turnUnless_eq]
@[simp] theorem State.turnUnless_pinmux (skip : Bool) : (s.turnUnless skip).pinmux = s.pinmux := by
  rw [State.turnUnless_eq]
@[simp] theorem State.turnUnless_pr (skip : Bool) : (s.turnUnless skip).pr = s.pr := by
  rw [State.turnUnless_eq]
@[simp] theorem State.turnUnless_inited (skip : Bool) : (s.turnUnless skip).inited = s.inited := by
  rw [State.turnUnless_eq]
@[simp] theorem State.turnUnless_fault (skip : Bool) : (s.turnUnless skip).fault = s.fault := by
  rw [State.turnUnless_eq]

/-- A turn of the timer commutes with an update that neither the coming boundary nor its effect sees. -/
theorem timerTurn_comm (f : State → State) (hcomes : (f s).boundaryComes = s.boundaryComes)
    (hquiet : f { s with timer := s.timer.tail } = { f s with timer := (f s).timer.tail })
    (hboundary : f { s.boundary with timer := s.timer.tail } = { (f s).boundary with timer := (f s).timer.tail }) :
    (f s).timerTurn = f s.timerTurn := by
  cases h : s.boundaryComes
  · rw [timerTurn_of_quiet s h, timerTurn_of_quiet (f s) (hcomes.trans h), hquiet]
  · rw [timerTurn_of_boundary s h, timerTurn_of_boundary (f s) (hcomes.trans h), hboundary]

theorem timerTurn_markActive (s : State) (port : Fin 5) (c : Channel) :
    (s.markActive port c).timerTurn = s.timerTurn.markActive port c :=
  timerTurn_comm (·.markActive port c) rfl rfl rfl

theorem timerTurn_markInactive (s : State) (port : Fin 5) (c : Channel) :
    (s.markInactive port c).timerTurn = s.timerTurn.markInactive port c :=
  timerTurn_comm (·.markInactive port c) rfl rfl rfl

theorem timerTurn_setEna (s : State) (c : Channel) (b : Bool) :
    (s.setEna c b).timerTurn = s.timerTurn.setEna c b :=
  timerTurn_comm (·.setEna c b) rfl rfl rfl

theorem attach_end_eq (s : State) (port : Fin 5) (n : Fin 32) (c : Channel) (code : FeatureCode) :
    ((enableIfIdle (s.markActive port c) c (channelOwned s.active c)).timerTurn.setPinmux port n code).advance 2
      = attached s port n c code := by
  unfold enableIfIdle attached State.turnUnless
  split <;> simp [timerTurn_markActive, timerTurn_setEna, State.ext_iff]

theorem detach_end_eq (s : State) (port : Fin 5) (c : Channel) :
    (disableIfUnowned (s.markInactive port c) c (channelOwned (s.markInactive port c).active c)).advance 1
      = detached s port c := by
  unfold disableIfUnowned detached State.turnUnless
  dsimp only
  rw [State.markInactive_active]
  split <;> simp [timerTurn_markInactive, State.ext_iff]

theorem busWrite_frame {a v : Word} (h : s.busWrite a v = .next u) : ∃ mr pr, u = { s with mr := mr, pr := pr } := by
  obtain ⟨j, rfl⟩ | rfl := busWrite_next h
  · exact ⟨_, _, rfl⟩
  · exact ⟨_, _, rfl⟩

theorem resolvePin_chan {pin : Pin} {q : PhysPin} {c : Channel} (hq : resolvePin pin = some q) (hc : q.channel = some c) :
    pin.chan.toNat = (channelReg c).val := by
  unfold resolvePin at hq
  split at hq
  · cases hq
    unfold channelOf at hc
    split at hc
    · cases hc
      simp only [channelReg, Fin.val_succ]
      omega
    · cases hc
  · cases hq

theorem Completes.answered {v : Word} {draws : Nat} (hi : IsQuery i)
    (ht : t = { s with result := some v, pc := s.pc + 1, draws := draws }) : Completes i s t :=
  ht ▸ .query hi v draws

/-- A command issued in a running state: it took a fault, or it completed. -/
theorem exec_next (h : exec i s = .next t) : s.fault = none ∧ (TookFault s t ∨ Completes i s t) := by
  cases i with
  | init prescale period =>
    obtain ⟨hf, u, w, hu, hw, rfl⟩ := execInit_next h
    exact ⟨hf, .inr (.init hu hw)⟩
  | setper period =>
    obtain ⟨hf, u, hu, rfl⟩ := execSetper_next h
    exact ⟨hf, .inr (.setper hu)⟩
  | attach pin v =>
    refine (execAttach_next h).imp_right <| .imp_right ?_
    rintro ⟨q, c, u, w, hq, hc, -, -, hu, rfl, rfl⟩
    exact attach_end_eq _ q.port q.pinno c _ ▸ .attach q.port q.pinno c (resolvePin_chan hq hc) hu
  | setmatch pin v =>
    exact (execSetmatch_next h).imp_right <| .imp_right fun ⟨_, c, _, _, _, _, hu, ht⟩ => ht ▸ .setmatch c hu
  | detach pin =>
    exact (execDetach_next h).imp_right <| .imp_right fun ⟨q, c, _, _, ht⟩ =>
      (ht.trans (detach_end_eq s q.port c)) ▸ .detach q.port c
  | markact pin => exact (execMarkact_next h).imp_right <| .imp_right fun ⟨q, c, _, _, ht⟩ => ht ▸ .markact q.port c
  | markinact pin =>
    exact (execMarkinact_next h).imp_right <| .imp_right fun ⟨q, c, _, _, ht⟩ => ht ▸ .markinact q.port c
  | mrwr pin v => exact (execMrwr_next h).imp_right <| .imp_right fun ⟨_, c, _, _, _, hu, ht⟩ => ht ▸ .mrwr c hu
  | mrrd pin =>
    exact (execMrrd_next h).imp_right <| .imp_right fun ⟨_, _, _, _, _, _, ht⟩ => .answered trivial ht
  | pinact pin => exact (execPinact_next h).imp_right <| .imp_right fun ⟨_, _, ht⟩ => .answered trivial ht
  | chact pin => exact (execChact_next h).imp_right <| .imp_right fun ⟨_, _, ht⟩ => .answered trivial ht
  | feat pin => exact (execFeat_next h).imp_right <| .imp_right fun ⟨_, _, ht⟩ => .answered trivial ht
  | mraddr pin => exact (execMraddr_next h).imp_right <| .imp_right fun ⟨_, _, _, _, ht⟩ => .answered trivial ht
  | bitidx pin => exact (execBitidx_next h).imp_right <| .imp_right fun ⟨_, _, _, _, ht⟩ => .answered trivial ht

/-! ## R21: the command pointer -/

theorem encode_length_of_isQuery (hi : IsQuery i) : (encode i).length = 1 := by
  cases i with
  | bitidx | pinact | chact | feat | mraddr | mrrd => rfl
  | init | setper | attach | setmatch | detach | markact | markinact | mrwr => exact hi.elim

/-- R28, R38, R61: what no command changes; one that completes takes no fault. -/
theorem Completes.keeps (h : Completes i s t) :
    t.cfg = s.cfg ∧ t.program = s.program ∧ t.unserialised = s.unserialised ∧ t.pcrOther = s.pcrOther
      ∧ t.fault = s.fault := by
  cases h with
  | query | markact | markinact => simp
  | mrwr c hu | setper hu | setmatch c hu =>
    obtain ⟨mr, pr, rfl⟩ := busWrite_frame hu
    simp
  | init hu hw =>
    obtain ⟨mr, pr, rfl⟩ := busWrite_frame hu
    obtain ⟨mr', pr', rfl⟩ := busWrite_frame hw
    simp
  | attach port n c hc hu =>
    obtain ⟨mr, pr, rfl⟩ := busWrite_frame hu
    simp [attached, latched]
  | detach port c => simp [detached]

theorem Completes.pc (h : Completes i s t) : t.pc = s.pc + (encode i).length := by
  cases h with
  | query hi => rw [encode_length_of_isQuery hi]
  | markact | markinact | detach => rfl
  | attach port n c hc hu =>
    obtain ⟨mr, pr, rfl⟩ := busWrite_frame hu
    simp [attached, latched, encode]
  | mrwr c hu | setper hu | setmatch c hu =>
    obtain ⟨mr, pr, rfl⟩ := busWrite_frame hu
    simp [encode]
  | init hu hw =>
    obtain ⟨mr, pr, rfl⟩ := busWrite_frame hu
    obtain ⟨mr', pr', rfl⟩ := busWrite_frame hw
    simp [encode]

/-- Settles O13: a fault leaves `pc`, and a completed command has moved it by its length. -/
theorem commandPointerAdvancesByLength : Obligations.CommandPointerAdvancesByLength := by
  intro i s t h
  obtain ⟨hrun, ⟨code, rfl⟩ | hdone⟩ := exec_next h
  · simp
  · obtain ⟨-, -, -, -, hfault⟩ := hdone.keeps
    simp [hfault, hrun, hdone.pc]

/-! ## R32: a faulted state -/

theorem exec_of_fault {code : FaultCode} (h : s.fault = some code) (i : Instr) : exec i s = .fault (.halted code) := by
  cases i with
  | init | setper | attach | setmatch | detach | pinact | chact | feat | mraddr | bitidx | markact | markinact | mrrd | mrwr =>
    exact issue_of_fault h _

/-- Settles O14: every command is issued through `issue`, and neither agent's turn is enabled. -/
theorem faultedStateHasNoStep : Obligations.FaultedStateHasNoStep := by
  intro s code h
  refine ⟨exec_of_fault h, fun t hstep => ?_, by simp [State.boundaryEnabled, h], by simp [h]⟩
  obtain ⟨-, hrun, -⟩ := step_next hstep
  cases h.symm.trans hrun

/-! ## What a step does -/

theorem callerAction_timerTurn (s : State) : s.timerTurn.callerAction = s.callerAction := by
  simp [State.callerAction]

/-- A step that answers a next state: the timer's turn, and then nothing, a read of RESULT, a fault, or a command. -/
inductive StepDoes (s : State) : State → Prop
  | idle : StepDoes s s.timerTurn
  | read : StepDoes s { s.timerTurn with resultReads := s.resultReads.tail }
  | fault (code : FaultCode) : StepDoes s (s.timerTurn.raiseFault code)
  | command {i : Instr} {t : State} (hi : s.callerAction = .issue i) (hdone : Completes i s.timerTurn t) : StepDoes s t

theorem step_does (h : step s = .next t) : StepDoes s t := by
  obtain ⟨-, -, h⟩ := step_next h
  obtain ⟨-, rfl⟩ | ⟨-, rfl⟩ | ⟨-, rfl⟩ | ⟨i, hi, hexec⟩ := callerTurn_next h
  · obtain ⟨-, hread⟩ | ⟨-, hread⟩ := callerRead_cases s.timerTurn
    · exact hread ▸ .fault _
    · rw [hread, State.timerTurn_resultReads]
      exact .read
  · exact .idle
  · exact .fault _
  · obtain ⟨-, ⟨code, rfl⟩ | hdone⟩ := exec_next hexec
    · exact .fault code
    · exact .command (callerAction_timerTurn s ▸ hi) hdone

/-- Settles O12: no command writes them, and a read of RESULT, a fault and the timer's turn do not either. -/
theorem stepKeepsArgumentsOfTheRun : Obligations.StepKeepsArgumentsOfTheRun := by
  intro s t h
  cases step_does h with
  | idle | read | fault => simp
  | command hi hdone =>
    obtain ⟨hcfg, hprogram, hcontexts, hother, -⟩ := hdone.keeps
    simp [hcfg, hprogram, hcontexts, hother]

/-- Settles O9: the turn of the timer keeps what the caller's choice and its read look at. -/
theorem callerReadOfResult : Obligations.CallerReadOfResult := by
  intro s hr hf hdue
  have hact : s.timerTurn.callerAction = .readResult := by
    rw [callerAction_timerTurn, State.callerAction, if_pos hdue]
  have hstep : step s = .next s.timerTurn.callerRead := by
    rw [step_of_running hr hf, callerTurn, hact]
  obtain ⟨hnone, hread⟩ | ⟨hsome, hread⟩ := callerRead_cases s.timerTurn
  · rw [State.timerTurn_result] at hnone
    rw [hstep, hread, hnone]
    exact ⟨fun _ => rfl, nofun⟩
  · rw [State.timerTurn_result] at hsome
    rw [hstep, hread, State.timerTurn_resultReads]
    exact ⟨fun hnone => by simp [hnone] at hsome, fun _ _ => rfl⟩

/-! ## R35: INV1 -/

theorem getLsbD_bit_bitIndex (p q : Fin 5) (c d : Channel) :
    (bit (bitIndex p c)).getLsbD (bitIndex q d) = decide (q = p ∧ d = c) := by
  have hlt := bitIndex_lt p c
  have hiff : bitIndex q d = bitIndex p c ↔ q = p ∧ d = c :=
    ⟨bitIndex_injective, fun ⟨hq, hd⟩ => by rw [hq, hd]⟩
  simp only [getLsbD_bit _ _ (show bitIndex p c < 32 by omega), hiff]

theorem ownsChannel_markActive (a : Word) (p q : Fin 5) (c d : Channel) :
    ownsChannel (a ||| bit (bitIndex p c)) q d = (ownsChannel a q d || decide (q = p ∧ d = c)) := by
  rw [ownsChannel, BitVec.getLsbD_or, getLsbD_bit_bitIndex, ownsChannel]

theorem ownsChannel_markInactive (a : Word) (p q : Fin 5) (c d : Channel) :
    ownsChannel (a &&& ~~~ bit (bitIndex p c)) q d = (ownsChannel a q d && !decide (q = p ∧ d = c)) := by
  have hlt := bitIndex_lt q d
  have h32 : decide (bitIndex q d < 32) = true := decide_eq_true (by omega)
  rw [ownsChannel, BitVec.getLsbD_and, BitVec.getLsbD_not, getLsbD_bit_bitIndex, h32, Bool.true_and, ownsChannel]

theorem channelOwned_eq_of_ownsChannel {a b : Word} {c : Channel} (h : ∀ p, ownsChannel a p c = ownsChannel b p c) :
    channelOwned a c = channelOwned b c := by
  rw [Bool.eq_iff_iff, channelOwned_iff, channelOwned_iff]
  simp only [h]

/-- R127 gives the channel an owner. -/
theorem channelOwned_markActive_same (a : Word) (p : Fin 5) (c : Channel) :
    channelOwned (a ||| bit (bitIndex p c)) c = true :=
  (channelOwned_iff _ _).mpr ⟨p, by simp [ownsChannel_markActive]⟩

theorem channelOwned_markActive_other (a : Word) (p : Fin 5) {c d : Channel} (h : d ≠ c) :
    channelOwned (a ||| bit (bitIndex p c)) d = channelOwned a d :=
  channelOwned_eq_of_ownsChannel fun q => by simp [ownsChannel_markActive, h]

theorem channelOwned_markInactive_other (a : Word) (p : Fin 5) {c d : Channel} (h : d ≠ c) :
    channelOwned (a &&& ~~~ bit (bitIndex p c)) d = channelOwned a d :=
  channelOwned_eq_of_ownsChannel fun q => by simp [ownsChannel_markInactive, h]

/-- An owner that R128 leaves was one before. -/
theorem channelOwned_of_markInactive {a : Word} {p : Fin 5} {c d : Channel}
    (h : channelOwned (a &&& ~~~ bit (bitIndex p c)) d = true) : channelOwned a d = true := by
  obtain ⟨q, hq⟩ := (channelOwned_iff _ _).mp h
  rw [ownsChannel_markInactive, Bool.and_eq_true] at hq
  exact (channelOwned_iff _ _).mpr ⟨q, hq.1⟩

/-- The enable bits after the mark of ATTACH s3 and the access s4. -/
theorem attached_ena_eq_owned (hinv : EnableTracksOwners s) (p : Fin 5) (n : Fin 32) (c : Channel) (code : FeatureCode) (d : Channel) :
    (attached s p n c code).ena[d] = channelOwned (attached s p n c code).active d := by
  unfold attached
  dsimp only
  by_cases hd : d = c
  · subst hd
    rw [channelOwned_markActive_same]
    split
    · rwa [hinv]
    · simp
  · rw [channelOwned_markActive_other _ _ hd, ← hinv d]
    split
    · rfl
    · exact Vector.getElem_set_ne _ _ (fun h => hd (Fin.ext h.symm))

/-- The enable bits after the mark of DETACH s1 and the access s2. -/
theorem detached_ena_eq_owned (hinv : EnableTracksOwners s) (p : Fin 5) (c d : Channel) :
    (detached s p c).ena[d] = channelOwned (detached s p c).active d := by
  unfold detached
  dsimp only
  by_cases hd : d = c
  · subst hd
    split
    · rename_i howned
      rw [hinv, howned, channelOwned_of_markInactive howned]
    · rename_i hfree
      simpa using hfree
  · rw [channelOwned_markInactive_other _ _ hd, ← hinv d]
    split
    · rfl
    · exact Vector.getElem_set_ne _ _ (fun h => hd (Fin.ext h.symm))

theorem EnableTracksOwners.congr (h : EnableTracksOwners s) (he : t.ena = s.ena) (ha : t.active = s.active) :
    EnableTracksOwners t := fun c => by rw [he, ha, h c]

/-- R148: the commands that mark a pin without touching its channel's enable bit. -/
abbrev NeverMarks (i : Instr) : Prop := ∀ p, i ≠ .markact p ∧ i ≠ .markinact p

theorem neverMarks_attach (pin : Pin) (v : Word) : NeverMarks (.attach pin v) := fun _ => ⟨nofun, nofun⟩

theorem neverMarks_detach (pin : Pin) : NeverMarks (.detach pin) := fun _ => ⟨nofun, nofun⟩

theorem Completes.enableTracksOwners (h : Completes i s t) (hi : NeverMarks i) (hinv : EnableTracksOwners s) :
    EnableTracksOwners t := by
  cases h with
  | query => exact hinv
  | markact => exact absurd rfl (hi _).1
  | markinact => exact absurd rfl (hi _).2
  | mrwr c hu | setper hu | setmatch c hu =>
    obtain ⟨mr, pr, rfl⟩ := busWrite_frame hu
    exact hinv.congr (by simp) (by simp)
  | init hu hw =>
    obtain ⟨mr, pr, rfl⟩ := busWrite_frame hu
    obtain ⟨mr', pr', rfl⟩ := busWrite_frame hw
    exact hinv.congr (by simp) (by simp)
  | attach port n c hc hu =>
    obtain ⟨mr, pr, rfl⟩ := busWrite_frame hu
    exact attached_ena_eq_owned (hinv.congr (by simp [latched]) (by simp [latched])) port n c _
  | detach port c => exact detached_ena_eq_owned hinv port c

theorem timerTurn_enableTracksOwners (hinv : EnableTracksOwners s) : EnableTracksOwners s.timerTurn :=
  hinv.congr (by simp) (by simp)

theorem exec_enableTracksOwners (hi : NeverMarks i) (hinv : EnableTracksOwners s) (h : exec i s = .next t) :
    EnableTracksOwners t := by
  obtain ⟨-, ⟨code, rfl⟩ | hdone⟩ := exec_next h
  · exact hinv
  · exact hdone.enableTracksOwners hi hinv

/-- Settles O56: a turn of the timer, a read and a fault leave both registers alone, and a command keeps INV1. -/
theorem stepsKeepEnableTracksOwners : Obligations.StepsKeepEnableTracksOwners := by
  intro s t hinv hcaller h
  have hturn := timerTurn_enableTracksOwners hinv
  cases step_does h with
  | idle | read | fault => exact hturn
  | command hi hdone =>
    exact hdone.enableTracksOwners (fun p => by simpa [hi] using hcaller p) hturn

/-- What a later ATTACH or DETACH needs of a state: it runs, has accepted parameters and is initialised. -/
structure Ready (p : Params) (s : State) : Prop where
  cfg : s.cfg = p
  fault : s.fault = none
  inited : s.inited = true

theorem Ready.timerTurn {p : Params} (h : Ready p s) : Ready p s.timerTurn :=
  ⟨by simp [h.cfg], by simp [h.fault], by simp [h.inited]⟩

/-- R145: the end state of an ATTACH that passes its checks. -/
theorem exec_attach_of_ready {p : Params} (hs : Ready p s) (hp : paramsAccepted p = true) {port : Fin 5}
    (hl : p.featureTable[port].msb = false) (n : Fin 32) (c : Channel) (v : Word) :
    exec (.attach (pinOf port n c.succ) v) s
      = .next (attached (latched (s.setMr (channelReg c) v) (channelReg c)) port n c (featureCode p port)) := by
  obtain ⟨rfl, hf, hi⟩ := hs
  have hfeature : lacksFeature s.cfg port = false := hl
  simp only [exec, execAttach, issuePin_channel hf, State.requireInited, hi, State.requireChannel, State.requireFeature,
    hfeature, stageAndLatch_eq hp]
  exact congrArg _ (attach_end_eq _ port n c _)

/-- R146: the end state of a DETACH of a legal pin with a channel. -/
theorem exec_detach_of_running (hf : s.fault = none) (port : Fin 5) (n : Fin 32) (c : Channel) :
    exec (.detach (pinOf port n c.succ)) s = .next (detached s port c) := by
  simp only [exec, execDetach, issuePin_channel hf, State.requireChannel, detach_end_eq]

/-- R145: an ATTACH that passes its checks completes and adds its pin to the owners. -/
theorem exec_attach_completes {p : Params} (hs : Ready p s) (hp : paramsAccepted p = true) {port : Fin 5}
    (hl : p.featureTable[port].msb = false) (n : Fin 32) (c : Channel) (v : Word) :
    ∃ t, exec (.attach (pinOf port n c.succ) v) s = .next t ∧ Ready p t
      ∧ t.active = s.active ||| bit (bitIndex port c) := by
  refine ⟨_, exec_attach_of_ready hs hp hl n c v, ?_, by simp [attached, latched]⟩
  exact ⟨by simp [attached, latched, hs.cfg], by simp [attached, latched, hs.fault], by simp [attached, latched, hs.inited]⟩

/-- R146: a DETACH of a legal pin with a channel completes and takes its pin from the owners. -/
theorem exec_detach_completes {p : Params} (hs : Ready p s) (port : Fin 5) (n : Fin 32) (c : Channel) :
    ∃ t, exec (.detach (pinOf port n c.succ)) s = .next t ∧ Ready p t
      ∧ t.active = s.active &&& ~~~ bit (bitIndex port c) := by
  refine ⟨_, exec_detach_of_running hs.fault port n c, ?_, rfl⟩
  exact ⟨by simp [detached, hs.cfg], by simp [detached, hs.fault], by simp [detached, hs.inited]⟩

/-- R35: under INV1 a channel's enable bit tells whether some port owns the channel. -/
theorem ena_iff_owner (hinv : EnableTracksOwners s) (c : Channel) :
    s.ena[c] = true ↔ ∃ port : Fin 5, ownsChannel s.active port c = true := by
  rw [hinv c, channelOwned_iff]

/-- Settles O55: at each of the four states INV1 reads the enable bit off the owners. -/
theorem commandsKeepEnableTracksOwners : Obligations.CommandsKeepEnableTracksOwners := by
  refine ⟨fun i s t hi hinv h => exec_enableTracksOwners hi hinv h, ?_⟩
  intro s p q n m c v w hp hf hi hinv hpq hlp hlq
  have hready : Ready s.cfg s := ⟨rfl, hf, hi⟩
  obtain ⟨t1, h1, hready1, ha1⟩ := exec_attach_completes hready hp hlp n c v
  obtain ⟨t2, h2, hready2, ha2⟩ := exec_attach_completes hready1.timerTurn hp hlq m c w
  obtain ⟨t3, h3, hready3, ha3⟩ := exec_detach_completes hready2.timerTurn p n c
  obtain ⟨t4, h4, -, ha4⟩ := exec_detach_completes hready3.timerTurn q m c
  have hinv1 := exec_enableTracksOwners (neverMarks_attach _ _) hinv h1
  have hinv2 := exec_enableTracksOwners (neverMarks_attach _ _) (timerTurn_enableTracksOwners hinv1) h2
  have hinv3 := exec_enableTracksOwners (neverMarks_detach _) (timerTurn_enableTracksOwners hinv2) h3
  have hinv4 := exec_enableTracksOwners (neverMarks_detach _) (timerTurn_enableTracksOwners hinv3) h4
  rw [State.timerTurn_active] at ha2 ha3 ha4
  refine ⟨t1, t2, t3, t4, h1, h2, h3, h4, (ena_iff_owner hinv1 c).mpr ⟨p, ?_⟩, (ena_iff_owner hinv2 c).mpr ⟨q, ?_⟩,
    (ena_iff_owner hinv3 c).mpr ⟨q, ?_⟩, (ena_iff_owner hinv4 c).trans (exists_congr fun r => ?_)⟩
  · simp [ha1, ownsChannel_markActive]
  · simp [ha2, ownsChannel_markActive]
  · simp [ha3, ha2, ownsChannel_markActive, ownsChannel_markInactive, Ne.symm hpq]
  · rw [ha4, ha3, ha2, ha1, ← bitIndex, ← ownsChannel]
    simp only [ownsChannel_markInactive, ownsChannel_markActive]
    by_cases hrp : r = p <;> by_cases hrq : r = q <;> simp [hrp, hrq]

/-! ## Which commands write which register -/

/-- Match register 0 is no channel's. -/
@[simp] theorem mr_set_channelReg_zero (mr : Vector (Option Word) 7) (c : Channel) (v : Option Word) :
    (mr.set (channelReg c) v)[0] = mr[0] :=
  Vector.getElem_set_ne _ _ (by simp [channelReg])

/-- Settles O40: a register a completed command does not write is as before, and a fault changes none. -/
theorem writersOfEachRegister : Obligations.WritersOfEachRegister := by
  intro i s t hp h
  obtain ⟨-, ⟨code, rfl⟩ | hdone⟩ := exec_next h
  · simp
  · cases hdone with
    | query hi => exact ⟨fun _ => hi, by simp⟩
    | markact | markinact => simp
    | mrwr c hu | setmatch c hu =>
      cases (busWrite_mrAddr hp _ _).symm.trans hu
      simp
    | init hu hw =>
      obtain ⟨mr, pr, rfl⟩ := busWrite_frame hu
      obtain ⟨mr', pr', rfl⟩ := busWrite_frame hw
      simp
    | setper hu =>
      cases (busWrite_mrAddr hp _ _).symm.trans hu
      simp
    | attach port n c hc hu =>
      cases (busWrite_mrAddr hp _ _).symm.trans hu
      simp [attached, latched]
    | detach => simp [detached]

/-- Settles O54: at reset no channel is enabled or owned, no register is written, and `pc` is 0. -/
theorem resetMeetsTheInvariants : Obligations.ResetMeetsTheInvariants := by
  refine ⟨?inv1, ?inv2, ?latched, ?applied, ?pc⟩
  case inv1 => decide
  case inv2 => rfl
  case latched => decide
  case applied => decide
  case pc => exact Nat.le_refl 0

/-! ## R36: INV2 -/

theorem bit_bitIndex_top (port : Fin 5) (c : Channel) : (bit (bitIndex port c)).extractLsb' 30 2 = 0 := by
  revert port c; decide

theorem topBits_markActive {a : Word} (h : a.extractLsb' 30 2 = 0) (port : Fin 5) (c : Channel) :
    (a ||| bit (bitIndex port c)).extractLsb' 30 2 = 0 := by
  rw [BitVec.extractLsb'_or, h, bit_bitIndex_top]
  rfl

theorem topBits_markInactive {a : Word} (h : a.extractLsb' 30 2 = 0) (port : Fin 5) (c : Channel) :
    (a &&& ~~~ bit (bitIndex port c)).extractLsb' 30 2 = 0 := by
  rw [BitVec.extractLsb'_and, h]
  exact BitVec.zero_and

theorem TopBitsClear.congr (h : TopBitsClear s) (ha : t.active = s.active) : TopBitsClear t := by
  rw [TopBitsClear, ha, h]

theorem Completes.topBitsClear (hdone : Completes i s t) (h : TopBitsClear s) : TopBitsClear t := by
  cases hdone with
  | query => exact h
  | markact port c => exact topBits_markActive h port c
  | markinact port c => exact topBits_markInactive h port c
  | mrwr c hu | setper hu | setmatch c hu =>
    obtain ⟨mr, pr, rfl⟩ := busWrite_frame hu
    exact h.congr (by simp)
  | init hu hw =>
    obtain ⟨mr, pr, rfl⟩ := busWrite_frame hu
    obtain ⟨mr', pr', rfl⟩ := busWrite_frame hw
    exact h.congr (by simp)
  | attach port n c hc hu =>
    obtain ⟨mr, pr, rfl⟩ := busWrite_frame hu
    have hstaged : TopBitsClear (latched { s with mr := mr, pr := pr } (channelReg c)) := h.congr (by simp [latched])
    exact topBits_markActive hstaged port c
  | detach port c => exact topBits_markInactive h port c

/-! ## R112, R160: what is pending or applied is staged -/

theorem requestLatch_ler_of_ne {j r : Fin 7} (h : j ≠ r) : (s.requestLatch r).ler[j] = s.ler[j] :=
  Vector.getElem_set_ne r.isLt _ fun e => h (Fin.ext e.symm)

/-- The two latch invariants. -/
structure LatchInvariant (s : State) : Prop where
  pending : LatchedIsStaged s
  applied : AppliedIsStaged s

namespace LatchInvariant

theorem congr (h : LatchInvariant s) (hm : t.mr = s.mr) (hl : t.ler = s.ler) (ha : t.applied = s.applied) :
    LatchInvariant t :=
  ⟨fun j => by rw [hm, hl]; exact h.pending j, fun j => by rw [hm, ha]; exact h.applied j⟩

theorem timerTurn (h : LatchInvariant s) : LatchInvariant s.timerTurn where
  pending j hj := by
    rw [timerTurn_ler_get, Bool.and_eq_true] at hj
    rw [State.timerTurn_mr]
    exact h.pending j hj.2
  applied j hj := by
    rw [timerTurn_applied_get] at hj
    rw [State.timerTurn_mr]
    split at hj
    · exact hj
    · exact h.applied j hj

theorem turnUnless (h : LatchInvariant s) (skip : Bool) : LatchInvariant (s.turnUnless skip) := by
  cases skip
  · exact h.timerTurn
  · exact h

theorem setMr (h : LatchInvariant s) (r : Fin 7) (v : Word) : LatchInvariant (s.setMr r v) := by
  have hkept (j : Fin 7) (hj : s.mr[j].isSome = true) : (s.setMr r v).mr[j].isSome = true := by
    simp only [State.setMr_mr, Fin.getElem_fin, Vector.getElem_set]
    split
    · rfl
    · exact hj
  exact ⟨fun j hj => hkept j (h.pending j hj), fun j hj => hkept j (h.applied j hj)⟩

theorem requestLatch (h : LatchInvariant s) {r : Fin 7} (hr : s.mr[r].isSome = true) : LatchInvariant (s.requestLatch r) where
  pending j hj := by
    by_cases hjr : j = r
    · subst hjr; exact hr
    · rw [requestLatch_ler_of_ne hjr] at hj
      exact h.pending j hj
  applied := h.applied

/-- A value staged, and its latch requested after the timer's turn. -/
theorem stageAndLatch (h : LatchInvariant s) (r : Fin 7) (v : Word) :
    LatchInvariant ((s.setMr r v).timerTurn.requestLatch r) :=
  (h.setMr r v).timerTurn.requestLatch (by simp)

theorem attached (h : LatchInvariant s) (port : Fin 5) (n : Fin 32) (c : Channel) (code : FeatureCode) :
    LatchInvariant (attached s port n c code) :=
  (h.timerTurn.turnUnless (channelOwned s.active c)).congr rfl rfl rfl

theorem detached (h : LatchInvariant s) (port : Fin 5) (c : Channel) : LatchInvariant (detached s port c) :=
  (h.turnUnless (channelOwned (s.active &&& ~~~ bit (bitIndex port c)) c)).congr rfl rfl rfl

end LatchInvariant

theorem Completes.latchInvariant (hdone : Completes i s t) (hp : paramsAccepted s.cfg = true) (h : LatchInvariant s) :
    LatchInvariant t := by
  cases hdone with
  | query | markact | markinact => exact h.congr rfl rfl rfl
  | mrwr c hu =>
    cases (busWrite_mrAddr hp _ _).symm.trans hu
    exact (h.setMr _ _).congr rfl rfl rfl
  | setper hu | setmatch c hu =>
    cases (busWrite_mrAddr hp _ _).symm.trans hu
    exact (h.stageAndLatch _ _).congr rfl rfl rfl
  | @init prescale period _ _ _ hu hw =>
    cases (busWrite_prAddr hp _).symm.trans hu
    cases (busWrite_mrAddr (by simpa using hp) _ _).symm.trans hw
    have hpr : LatchInvariant (s.setPr prescale) := h.congr rfl rfl rfl
    exact (hpr.timerTurn.stageAndLatch periodReg (initPeriodValue s.cfg period)).congr (by simp) (by simp) (by simp)
  | attach port n c hc hu =>
    cases (busWrite_mrAddr hp _ _).symm.trans hu
    exact (h.stageAndLatch (channelReg c) _).timerTurn.attached port n c _
  | detach port c => exact h.detached port c

/-! ## R21: the command pointer stays inside the program -/

theorem withNoPin_ok {w : Word} {k : Except DecodeError (Instr × List Word)} {r : Instr × List Word}
    (h : withNoPin w k = .ok r) : k = .ok r := by
  unfold withNoPin at h
  split at h
  · cases h
  · split at h
    · cases h
    · exact h

theorem withPin_ok {w : Word} {k : Pin → Except DecodeError (Instr × List Word)} {r : Instr × List Word}
    (h : withPin w k = .ok r) : ∃ p, k p = .ok r := by
  unfold withPin at h
  split at h
  · cases h
  · split at h
    · cases h
    · split at h
      · cases h
      · exact ⟨_, h⟩

theorem withOperand_ok {ws : List Word} {k : Word → List Word → Except DecodeError (Instr × List Word)}
    {r : Instr × List Word} (h : withOperand ws k = .ok r) : ∃ v rest, ws = v :: rest ∧ k v rest = .ok r := by
  cases ws with
  | nil => cases h
  | cons v rest => exact ⟨v, rest, rfl, h⟩

/-- A decoded command takes as many words as its encoding has. -/
theorem decode_length {ws rest : List Word} (h : decode ws = .ok (i, rest)) :
    ws.length = (encode i).length + rest.length := by
  unfold decode at h
  split at h
  · cases h
  · split at h
    case h_1 => -- INIT: two operand words
      obtain ⟨_, _, rfl, hperiod⟩ := withOperand_ok (withNoPin_ok h)
      obtain ⟨_, _, rfl, hok⟩ := withOperand_ok hperiod
      cases hok
      simp [encode]; omega
    case h_2 => -- SETPER: one operand word
      obtain ⟨_, _, rfl, hok⟩ := withOperand_ok (withNoPin_ok h)
      cases hok
      simp [encode]; omega
    case h_3 | h_4 | h_14 => -- a pin and one operand word
      obtain ⟨_, hpin⟩ := withPin_ok h
      obtain ⟨_, _, rfl, hok⟩ := withOperand_ok hpin
      cases hok
      simp [encode]; omega
    case h_15 => cases h
    all_goals -- a pin alone
      obtain ⟨_, hok⟩ := withPin_ok h
      cases hok
      simp [encode]; omega

theorem Completes.pcInProgram (hdone : Completes i s.timerTurn t) (hi : s.callerAction = .issue i) : PcInProgram t := by
  obtain ⟨hlt, rest, hdecode⟩ := callerAction_issue hi
  have hlen := decode_length hdecode
  rw [List.length_drop] at hlen
  obtain ⟨-, hprogram, -⟩ := hdone.keeps
  have hpc := hdone.pc
  rw [State.timerTurn_pc] at hpc
  rw [PcInProgram, hpc, hprogram, State.timerTurn_program]
  omega

theorem step_accepted (h : step s = .next t) : paramsAccepted s.cfg = true :=
  ((refusal_none_iff s).mp (step_next h).1).1

/-- Settles O57: the timer's turn and each command keep the invariant, and a decoded command ends inside the program. -/
theorem stepsKeepTheMachineInvariant : Obligations.StepsKeepTheMachineInvariant := by
  intro s t htop hpending happlied hpc h
  have htop' : TopBitsClear s.timerTurn := htop.congr (by simp)
  have hlatch : LatchInvariant s.timerTurn := LatchInvariant.timerTurn ⟨hpending, happlied⟩
  have hpc' : PcInProgram s.timerTurn := by simpa [PcInProgram] using hpc
  cases step_does h with
  | idle | read | fault => exact ⟨htop', hlatch.pending, hlatch.applied, hpc'⟩
  | command hi hdone =>
    obtain ⟨hpending', happlied'⟩ := hdone.latchInvariant (by simpa using step_accepted h) hlatch
    exact ⟨hdone.topBitsClear htop', hpending', happlied', hdone.pcInProgram hi⟩

/-! ## R26: applied values -/

/-- In `u`, reached from `s`: a request of register `j` is pending only under `R`, its staged value is one of `V`, and its
applied value has changed only with the timer running, under `R`, to one of `V`. -/
structure AppliesOnly (j : Fin 7) (R : Prop) (V : Option Word → Prop) (s u : State) : Prop where
  cfg : u.cfg = s.cfg
  request : u.ler[j] = true → R
  staged : V u.mr[j]
  applied : u.applied[j] ≠ s.applied[j] → s.cfg.timerRunning = true ∧ R ∧ V u.applied[j]

namespace AppliesOnly

variable {j : Fin 7} {R : Prop} {V : Option Word → Prop}

theorem congr (h : AppliesOnly j R V s u) (hc : t.cfg = u.cfg) (hm : t.mr = u.mr) (hl : t.ler = u.ler)
    (ha : t.applied = u.applied) : AppliesOnly j R V s t :=
  ⟨hc.trans h.cfg, by rw [hl]; exact h.request, by rw [hm]; exact h.staged, by rw [ha]; exact h.applied⟩

theorem timerTurn (h : AppliesOnly j R V s u) : AppliesOnly j R V s u.timerTurn where
  cfg := by rw [State.timerTurn_cfg, h.cfg]
  request hj := by
    rw [timerTurn_ler_get, Bool.and_eq_true] at hj
    exact h.request hj.2
  staged := by rw [State.timerTurn_mr]; exact h.staged
  applied := by
    rw [timerTurn_applied_get]
    split
    · rename_i hcomes
      simp only [State.boundaryComes, State.boundaryEnabled, Bool.and_eq_true, h.cfg] at hcomes
      obtain ⟨⟨⟨hruns, -⟩, -⟩, hpending⟩ := hcomes
      exact fun _ => ⟨hruns, h.request hpending, h.staged⟩
    · exact h.applied

theorem turnUnless (h : AppliesOnly j R V s u) (skip : Bool) : AppliesOnly j R V s (u.turnUnless skip) := by
  cases skip
  · exact h.timerTurn
  · exact h

theorem setMr (h : AppliesOnly j R V s u) {r : Fin 7} {v : Word} (hv : V (u.setMr r v).mr[j]) :
    AppliesOnly j R V s (u.setMr r v) :=
  ⟨h.cfg, h.request, hv, h.applied⟩

theorem requestLatch (h : AppliesOnly j R V s u) {r : Fin 7} (hr : j = r → R) : AppliesOnly j R V s (u.requestLatch r) where
  cfg := h.cfg
  request hj := by
    by_cases hjr : j = r
    · exact hr hjr
    · rw [requestLatch_ler_of_ne hjr] at hj
      exact h.request hj
  staged := h.staged
  applied := h.applied

theorem attached (h : AppliesOnly j R V s u) (port : Fin 5) (n : Fin 32) (c : Channel) (code : FeatureCode) :
    AppliesOnly j R V s (attached u port n c code) :=
  (h.timerTurn.turnUnless (channelOwned u.active c)).congr rfl rfl rfl rfl

theorem detached (h : AppliesOnly j R V s u) (port : Fin 5) (c : Channel) : AppliesOnly j R V s (detached u port c) :=
  (h.turnUnless (channelOwned (u.active &&& ~~~ bit (bitIndex port c)) c)).congr rfl rfl rfl rfl

/-- What a completed command makes of the applied value, where the value it leaves staged is one of `V` and ATTACH requests
only under `R`. A request that ends a command comes too late for it. -/
theorem completes (h : AppliesOnly j R V s u) (hp : paramsAccepted u.cfg = true) (hdone : Completes i u t) (hv : V t.mr[j])
    (hr : ∀ pin v, i = .attach pin v → pin.chan.toNat = j.val → R) :
    t.applied[j] ≠ s.applied[j] → s.cfg.timerRunning = true ∧ R ∧ V t.applied[j] := by
  cases hdone with
  | query | markact | markinact => exact h.applied
  | mrwr c hu =>
    cases (busWrite_mrAddr hp _ _).symm.trans hu
    exact h.applied
  | setper hu | setmatch c hu =>
    cases (busWrite_mrAddr hp _ _).symm.trans hu
    exact (h.setMr (by simpa using hv)).timerTurn.applied
  | @init prescale period _ _ _ hu hw =>
    cases (busWrite_prAddr hp _).symm.trans hu
    cases (busWrite_mrAddr (by simpa using hp) _ _).symm.trans hw
    have hpr : AppliesOnly j R V s (u.setPr prescale) := h.congr rfl rfl rfl rfl
    have hstaged : AppliesOnly j R V s ((u.setPr prescale).timerTurn.setMr periodReg (initPeriodValue u.cfg period)) :=
      hpr.timerTurn.setMr (by simpa using hv)
    simpa using hstaged.timerTurn.applied
  | attach port n c hc hu =>
    cases (busWrite_mrAddr hp _ _).symm.trans hu
    have hrequest : j = channelReg c → R := fun hj => hr _ _ rfl (by rw [hc, hj])
    have hlatched := ((h.setMr (by simpa [Machine.attached, latched] using hv)).timerTurn.requestLatch hrequest).timerTurn
    exact (hlatched.attached port n c _).applied
  | detach port c => exact (h.detached port c).applied

end AppliesOnly

/-- Settles O44: what may be pending, and what may be adopted, is followed through the turns of the step. -/
theorem appliedChangesOnlyByRequest : Obligations.AppliedChangesOnlyByRequest := by
  intro s t j h hne
  have hstart : AppliesOnly j (s.ler[j] = true ∨ ∃ p v, s.callerAction = .issue (.attach p v) ∧ p.chan.toNat = j.val)
      (fun x => x = s.mr[j] ∨ x = t.mr[j]) s s :=
    ⟨rfl, .inl, .inl rfl, fun hne => absurd rfl hne⟩
  have hturn := hstart.timerTurn
  cases step_does h with
  | idle | read | fault => exact hturn.applied hne
  | command hi hdone =>
    refine hturn.completes (by simpa using step_accepted h) hdone (.inr rfl) ?_ hne
    rintro pin v rfl hchan
    exact .inr ⟨pin, v, hi, hchan⟩

end
end Sys2Proof.Machine
end

section
/-!
PROOFS of 20_memory.md. An address resolves to the register whose address it is and to no other (R52); the word views of PCR
and LER hold each bit where the parameters place it (R55); the rules `registerAt_*` say which addresses an operation of the
state leaves alone, and a command's frame (R56) is their chain along its access steps.
-/

namespace Sys2Proof.Machine

open Sys2Proof

section
variable {s t : State} {p : Params}

/-! ## R58: the step -/

theorem callerAction_of_decode {i : Instr} {rest : List Word} (hread : s.resultReads.head? ≠ some s.pc)
    (hpc : s.pc < s.program.length) (hdecode : decode (s.program.drop s.pc) = .ok (i, rest)) :
    s.callerAction = .issue i := by
  rw [State.callerAction, if_neg hread, if_neg (Nat.not_le.mpr hpc), hdecode]

/-- Settles O7: the timer's turn keeps what the caller's choice looks at. -/
theorem stepRunsTheDecodedCommand : Obligations.StepRunsTheDecodedCommand := by
  intro s i rest hr hf hread hpc hdecode
  rw [step_of_running hr hf, callerTurn, callerAction_timerTurn, callerAction_of_decode hread hpc hdecode]

/-! ## R52: address resolution -/

/-- An address resolves to a register only if it is that register's. -/
theorem regOf_cases (p : Params) (a : Word) :
    (∃ i, a = mrAddr p i ∧ regOf p a = .mr i) ∨ (a = prAddr p ∧ regOf p a = .pr) ∨ (a = pcrAddr p ∧ regOf p a = .pcr)
      ∨ (a = lerAddr p ∧ regOf p a = .ler) ∨ regOf p a = .unmapped := by
  cases hfind : regIndices.find? (fun i => a == mrAddr p i) with
  | some i => exact .inl ⟨i, by simpa using List.find?_some hfind, by simp [regOf, hfind]⟩
  | none =>
    simp only [regOf, hfind]
    split
    · exact .inr (.inl ⟨‹_›, rfl⟩)
    · split
      · exact .inr (.inr (.inl ⟨‹_›, rfl⟩))
      · split
        · exact .inr (.inr (.inr (.inl ⟨‹_›, rfl⟩)))
        · exact .inr (.inr (.inr (.inr rfl)))

theorem regOf_unmapped {a : Word} (hmr : ∀ i, a ≠ mrAddr p i) (hpr : a ≠ prAddr p) (hpcr : a ≠ pcrAddr p)
    (hler : a ≠ lerAddr p) : regOf p a = .unmapped := by
  obtain ⟨i, ha, -⟩ | ⟨ha, -⟩ | ⟨ha, -⟩ | ⟨ha, -⟩ | hun := regOf_cases p a
  · exact absurd ha (hmr i)
  · exact absurd ha hpr
  · exact absurd ha hpcr
  · exact absurd ha hler
  · exact hun

/-- The outcome is a next state. -/
def Answers (o : Result) : Prop := ∃ t, o = .next t

section
variable {k : Result} {q : PhysPin}

@[simp] theorem answers_next (t : State) : Answers (.next t) := ⟨t, rfl⟩

theorem issuePin_answers (hf : s.fault = none) {pin : Pin} {k : PhysPin → Result} (hk : ∀ q, Answers (k q)) :
    Answers (s.issuePin pin k) := by
  rw [State.issuePin, issue_of_running hf]
  split
  · exact answers_next _
  · exact hk _

theorem requireInited_answers (hk : Answers k) : Answers (s.requireInited k) := by
  unfold State.requireInited
  split
  · exact hk
  · exact answers_next _

theorem requireChannel_answers {k : Channel → Result} (hk : ∀ c, Answers (k c)) : Answers (s.requireChannel q k) := by
  unfold State.requireChannel
  split
  · exact answers_next _
  · exact hk _

theorem requireFeature_answers (hk : Answers k) : Answers (s.requireFeature q k) := by
  unfold State.requireFeature
  split
  · exact answers_next _
  · exact hk

theorem requireStaged_answers {i : Fin 7} (hk : s.mr[i].isSome = true → Answers k) : Answers (s.requireStaged i k) := by
  unfold State.requireStaged
  split
  · exact answers_next _
  · rename_i hstaged
    exact hk (by simpa [Option.isSome_iff_ne_none] using hstaged)

theorem issuePin_requireChannel_answers (hf : s.fault = none) {pin : Pin} {k : PhysPin → Channel → Result}
    (hk : ∀ q c, Answers (k q c)) : Answers (s.issuePin pin fun q => s.requireChannel q (k q)) :=
  issuePin_answers hf fun q => requireChannel_answers (hk q)

end

theorem stageAndLatch_answers (hp : paramsAccepted s.cfg = true) {i : Fin 7} {v : Word} {k : State → Result}
    (hk : ∀ u, Answers (k u)) : Answers (s.stageAndLatch i v k) :=
  (stageAndLatch_eq hp i v k).symm ▸ hk _

/-- R52: under an accepted parameter set every command of a running machine answers a next state: its word accesses are at
addresses of match registers and PR. -/
theorem exec_answers (hp : paramsAccepted s.cfg = true) (hf : s.fault = none) (i : Instr) : Answers (exec i s) := by
  cases i with
  | init prescale period =>
    simp only [exec, execInit, issue_of_running hf, busWrite_prAddr hp, andThen_next_eq]
    exact stageAndLatch_answers (by simpa using hp) fun _ => answers_next _
  | setper period =>
    simp only [exec, execSetper, issue_of_running hf]
    exact stageAndLatch_answers hp fun _ => answers_next _
  | attach pin v =>
    exact issuePin_answers hf fun _ => requireInited_answers <| requireChannel_answers fun _ =>
      requireFeature_answers <| stageAndLatch_answers hp fun _ => answers_next _
  | setmatch pin v =>
    exact issuePin_answers hf fun _ => requireInited_answers <| requireChannel_answers fun _ =>
      stageAndLatch_answers hp fun _ => answers_next _
  | mrrd pin =>
    refine issuePin_requireChannel_answers hf fun _ c => requireStaged_answers fun hstaged => ?_
    obtain ⟨v, -, hread⟩ := busRead_mrAddr hp hstaged fun v s1 => s1.answer v
    exact hread ▸ answers_next _
  | mrwr pin v =>
    refine issuePin_requireChannel_answers hf fun _ c => ?_
    rw [busWrite_mrAddr hp]
    exact answers_next _
  | pinact pin | chact pin | feat pin => exact issuePin_answers hf fun _ => answers_next _
  | detach pin | mraddr pin | bitidx pin | markact pin | markinact pin =>
    exact issuePin_requireChannel_answers hf fun _ _ => answers_next _

/-- Settles O48: `regOf_cases` inverts the addresses; a running machine answers a next state, a faulted one is halted. -/
theorem addressResolution : Obligations.AddressResolution := by
  intro p hp
  refine ⟨regOf_mrAddr hp, regOf_prAddr hp, regOf_pcrAddr hp, regOf_lerAddr hp, fun _ => regOf_unmapped, ?_⟩
  rintro s i a rfl hexec
  cases hf : s.fault with
  | none =>
    obtain ⟨t, ht⟩ := exec_answers hp hf i
    cases ht.symm.trans hexec
  | some code => cases (exec_of_fault hf i).symm.trans hexec

/-! ## R55: the word views of PCR and LER -/

/-- The channels 1 to 6, in order. -/
def channelIndices : List Channel := [0, 1, 2, 3, 4, 5]

theorem mem_channelIndices (c : Channel) : c ∈ channelIndices := by
  revert c; decide

/-- The word with bit `pos i` set for each index `i` of `l` whose flag `b i` is set. -/
def placedBits {n : Nat} (l : List (Fin n)) (pos : Fin n → Fin 32) (b : Fin n → Bool) : Word :=
  orWords (l.map fun i => if b i then bit (pos i).val else 0)

theorem lerWord_eq (s : State) : s.lerWord = placedBits regIndices (s.cfg.lerBit[·]) (s.ler[·]) := rfl

theorem enaMask_eq (p : Params) : enaMask p = placedBits channelIndices (p.enaBit[·]) fun _ => true := rfl

theorem pcrWord_eq (s : State) :
    s.pcrWord = (s.pcrOther &&& ~~~ enaMask s.cfg) ||| placedBits channelIndices (s.cfg.enaBit[·]) (s.ena[·]) := rfl

theorem getLsbD_orWords (ws : List Word) (j : Nat) : (orWords ws).getLsbD j = ws.any (·.getLsbD j) := by
  induction ws with
  | nil => simp [orWords]
  | cons w ws ih =>
    have hcons : orWords (w :: ws) = w ||| orWords ws := rfl
    rw [hcons, BitVec.getLsbD_or, ih, List.any_cons]

/-- Clearing a bit that is clear changes nothing. -/
theorem and_not_bit_of_clear {w : Word} {k : Nat} (hk : k < 32) (h : w.getLsbD k = false) : w &&& ~~~ bit k = w := by
  apply BitVec.eq_of_getLsbD_eq
  intro j hj
  rw [BitVec.getLsbD_and, BitVec.getLsbD_not, getLsbD_bit k j hk]
  by_cases hjk : j = k
  · rw [hjk, h, Bool.false_and]
  · simp [hj, hjk]

section
variable {n : Nat} {l : List (Fin n)} {pos : Fin n → Fin 32} {b b' : Fin n → Bool} {i : Fin n}

/-- A bit of the word is set exactly if it is placed for a flag that is. -/
theorem getLsbD_placedBits_iff (hl : ∀ i, i ∈ l) (j : Nat) :
    (placedBits l pos b).getLsbD j = true ↔ ∃ i, b i = true ∧ j = (pos i).val := by
  have hbit (i : Fin n) :
      (if b i then bit (pos i).val else 0 : Word).getLsbD j = true ↔ b i = true ∧ j = (pos i).val := by
    cases b i <;> simp [getLsbD_bit _ _ (pos i).isLt]
  simp only [placedBits, getLsbD_orWords, List.any_map, List.any_eq_true, Function.comp_apply, hbit, hl, true_and]

theorem getLsbD_placedBits_pos (hl : ∀ i, i ∈ l) (hpos : Function.Injective pos) (i : Fin n) :
    (placedBits l pos b).getLsbD (pos i).val = b i := by
  rw [Bool.eq_iff_iff, getLsbD_placedBits_iff hl]
  constructor
  · rintro ⟨j, hj, hij⟩
    exact hpos (Fin.ext hij) ▸ hj
  · exact fun hi => ⟨i, hi, rfl⟩

theorem placedBits_set (hl : ∀ i, i ∈ l) (hi : b' i = true) (hne : ∀ j, j ≠ i → b' j = b j) :
    placedBits l pos b' = placedBits l pos b ||| bit (pos i).val := by
  apply BitVec.eq_of_getLsbD_eq
  intro k hk
  rw [Bool.eq_iff_iff, BitVec.getLsbD_or, Bool.or_eq_true, getLsbD_placedBits_iff hl, getLsbD_placedBits_iff hl,
    getLsbD_bit _ _ (pos i).isLt, decide_eq_true_iff]
  constructor
  · rintro ⟨j, hj, hjk⟩
    by_cases hji : j = i
    · exact .inr (hji ▸ hjk)
    · exact .inl ⟨j, hne j hji ▸ hj, hjk⟩
  · rintro (⟨j, hj, hjk⟩ | hik)
    · by_cases hji : j = i
      · exact ⟨i, hi, hji ▸ hjk⟩
      · exact ⟨j, (hne j hji).trans hj, hjk⟩
    · exact ⟨i, hi, hik⟩

/-- No other flag is placed at the cleared bit, since positions differ. -/
theorem placedBits_clear (hl : ∀ i, i ∈ l) (hpos : Function.Injective pos) (hi : b' i = false)
    (hne : ∀ j, j ≠ i → b' j = b j) : placedBits l pos b' = placedBits l pos b &&& ~~~ bit (pos i).val := by
  apply BitVec.eq_of_getLsbD_eq
  intro k hk
  rw [Bool.eq_iff_iff, BitVec.getLsbD_and, BitVec.getLsbD_not, Bool.and_eq_true, getLsbD_placedBits_iff hl,
    getLsbD_placedBits_iff hl, getLsbD_bit _ _ (pos i).isLt]
  simp only [hk, decide_true, Bool.true_and, Bool.not_eq_true', decide_eq_false_iff_not]
  constructor
  · rintro ⟨j, hj, hjk⟩
    have hji : j ≠ i := by rintro rfl; simp [hi] at hj
    exact ⟨⟨j, hne j hji ▸ hj, hjk⟩, fun hik => hji (hpos (Fin.ext (hjk.symm.trans hik)))⟩
  · rintro ⟨⟨j, hj, hjk⟩, hik⟩
    have hji : j ≠ i := by rintro rfl; exact hik hjk
    exact ⟨j, (hne j hji).trans hj, hjk⟩

end

theorem setEna_ena_of_ne {c d : Channel} {v : Bool} (h : d ≠ c) : (s.setEna c v).ena[d] = s.ena[d] :=
  Vector.getElem_set_ne c.isLt _ fun e => h (Fin.ext e.symm)

theorem getLsbD_enaMask (hp : paramsAccepted p = true) (c : Channel) : (enaMask p).getLsbD p.enaBit[c].val = true := by
  rw [enaMask_eq]
  exact getLsbD_placedBits_pos mem_channelIndices (fun _ _ => enaBit_injective hp) c

/-- R28: `PCR_OTHER` shows no bit at an enable bit's position. -/
theorem getLsbD_pcrOther_masked (hp : paramsAccepted p = true) (w : Word) (c : Channel) :
    (w &&& ~~~ enaMask p).getLsbD p.enaBit[c].val = false := by
  rw [BitVec.getLsbD_and, BitVec.getLsbD_not, getLsbD_enaMask hp, Bool.not_true, Bool.and_false, Bool.and_false]

theorem pcrWord_setEna_true (s : State) (c : Channel) :
    (s.setEna c true).pcrWord = s.pcrWord ||| bit s.cfg.enaBit[c].val := by
  have hplaced : placedBits channelIndices (s.cfg.enaBit[·]) ((s.setEna c true).ena[·])
      = placedBits channelIndices (s.cfg.enaBit[·]) (s.ena[·]) ||| bit s.cfg.enaBit[c].val :=
    placedBits_set mem_channelIndices (by simp) fun _ => setEna_ena_of_ne
  rw [pcrWord_eq s, BitVec.or_assoc, ← hplaced]
  rfl

theorem pcrWord_setEna_false (hp : paramsAccepted s.cfg = true) (c : Channel) :
    (s.setEna c false).pcrWord = s.pcrWord &&& ~~~ bit s.cfg.enaBit[c].val := by
  have hplaced : placedBits channelIndices (s.cfg.enaBit[·]) ((s.setEna c false).ena[·])
      = placedBits channelIndices (s.cfg.enaBit[·]) (s.ena[·]) &&& ~~~ bit s.cfg.enaBit[c].val :=
    placedBits_clear mem_channelIndices (fun _ _ => enaBit_injective hp) (by simp) fun _ => setEna_ena_of_ne
  have hother := and_not_bit_of_clear s.cfg.enaBit[c].isLt (getLsbD_pcrOther_masked hp s.pcrOther c)
  rw [pcrWord_eq s, BitVec.and_or_distrib_right, hother, ← hplaced]
  rfl

theorem getLsbD_pcrWord (hp : paramsAccepted s.cfg = true) (c : Channel) :
    s.pcrWord.getLsbD s.cfg.enaBit[c].val = s.ena[c] := by
  rw [pcrWord_eq, BitVec.getLsbD_or, getLsbD_pcrOther_masked hp, Bool.false_or]
  exact getLsbD_placedBits_pos mem_channelIndices (fun _ _ => enaBit_injective hp) c

theorem lerWord_requestLatch (s : State) (i : Fin 7) :
    (s.requestLatch i).lerWord = s.lerWord ||| bit s.cfg.lerBit[i].val :=
  placedBits_set (b' := ((s.requestLatch i).ler[·])) mem_regIndices (by simp) fun _ => requestLatch_ler_of_ne

theorem getLsbD_lerWord (hp : paramsAccepted s.cfg = true) (i : Fin 7) :
    s.lerWord.getLsbD s.cfg.lerBit[i].val = s.ler[i] :=
  getLsbD_placedBits_pos (b := (s.ler[·])) mem_regIndices (fun _ _ => lerBit_injective hp) i

/-- Settles O50: distinct flags are placed at distinct bits, and `PCR_OTHER` shows none of them. -/
theorem singleBitAccessesChangeOneBit : Obligations.SingleBitAccessesChangeOneBit := fun s hp =>
  ⟨fun c => ⟨pcrWord_setEna_true s c, pcrWord_setEna_false hp c, getLsbD_pcrWord hp c⟩,
    fun i => ⟨lerWord_requestLatch s i, getLsbD_lerWord hp i⟩⟩

/-! ## R56: the bytes an operation leaves alone -/

/-- An address shows the register it resolves to and nothing else of the state. -/
theorem registerAt_congr {a : Word} (hcfg : t.cfg = s.cfg) (hother : t.pcrOther = s.pcrOther)
    (hmr : ∀ i, a = mrAddr s.cfg i → t.mr[i] = s.mr[i]) (hpr : a = prAddr s.cfg → t.pr = s.pr)
    (hpcr : a = pcrAddr s.cfg → t.ena = s.ena) (hler : a = lerAddr s.cfg → t.ler = s.ler) :
    t.registerAt a = s.registerAt a := by
  obtain ⟨i, ha, hreg⟩ | ⟨ha, hreg⟩ | ⟨ha, hreg⟩ | ⟨ha, hreg⟩ | hreg := regOf_cases s.cfg a
  · simp only [State.registerAt, hcfg, hreg, hmr i ha]
  · simp only [State.registerAt, hcfg, hreg, hpr ha]
  · simp only [State.registerAt, hcfg, hreg, State.pcrWord, hother, hpcr ha]
  · simp only [State.registerAt, hcfg, hreg, State.lerWord, hler ha]
  · simp only [State.registerAt, hcfg, hreg]

section
variable {a : Word}

@[simp] theorem registerAt_advance (n : Nat) : (s.advance n).registerAt a = s.registerAt a := rfl

@[simp] theorem registerAt_setInited : s.setInited.registerAt a = s.registerAt a := rfl

theorem registerAt_setMr {i : Fin 7} (h : a ≠ mrAddr s.cfg i) (v : Word) : (s.setMr i v).registerAt a = s.registerAt a := by
  refine registerAt_congr rfl rfl (fun j hj => ?_) (fun _ => rfl) (fun _ => rfl) fun _ => rfl
  exact Vector.getElem_set_ne i.isLt j.isLt fun hij => h (Fin.ext hij ▸ hj)

theorem registerAt_setPr (h : a ≠ prAddr s.cfg) (v : Word) : (s.setPr v).registerAt a = s.registerAt a :=
  registerAt_congr rfl rfl (fun _ _ => rfl) (fun ha => absurd ha h) (fun _ => rfl) fun _ => rfl

theorem registerAt_requestLatch (h : a ≠ lerAddr s.cfg) (i : Fin 7) : (s.requestLatch i).registerAt a = s.registerAt a :=
  registerAt_congr rfl rfl (fun _ _ => rfl) (fun _ => rfl) (fun _ => rfl) fun ha => absurd ha h

theorem registerAt_timerTurn (h : a ≠ lerAddr s.cfg) : s.timerTurn.registerAt a = s.registerAt a :=
  registerAt_congr (by simp) (by simp) (by simp) (by simp) (by simp) fun ha => absurd ha h

theorem registerAt_stageAndLatch {i : Fin 7} (hmr : a ≠ mrAddr s.cfg i) (hler : a ≠ lerAddr s.cfg) (v : Word) :
    ((s.setMr i v).timerTurn.requestLatch i).registerAt a = s.registerAt a := by
  rw [registerAt_requestLatch (by simpa using hler), registerAt_timerTurn (by simpa using hler),
    registerAt_setMr hmr]

theorem registerAt_attached (hler : a ≠ lerAddr s.cfg) (hpcr : a ≠ pcrAddr s.cfg) (port : Fin 5) (n : Fin 32) (c : Channel)
    (code : FeatureCode) : (attached s port n c code).registerAt a = s.registerAt a :=
  registerAt_congr (by simp [attached]) (by simp [attached]) (by simp [attached]) (by simp [attached])
    (fun ha => absurd ha hpcr) fun ha => absurd ha hler

theorem registerAt_detached (hler : a ≠ lerAddr s.cfg) (hpcr : a ≠ pcrAddr s.cfg) (port : Fin 5) (c : Channel) :
    (detached s port c).registerAt a = s.registerAt a :=
  registerAt_congr (by simp [detached]) (by simp [detached]) (by simp [detached]) (by simp [detached])
    (fun ha => absurd ha hpcr) fun ha => absurd ha hler

end

theorem byteAt_congr {a : Word} (h : t.registerAt (a &&& ~~~ 3#32) = s.registerAt (a &&& ~~~ 3#32)) :
    t.byteAt a = s.byteAt a := by
  rw [State.byteAt, State.byteAt, h]

/-- Settles O51: per command, the chain of its access steps leaves the word alone, and a fault leaves all. -/
theorem commandsStoreOnlyTheirRegisters : Obligations.CommandsStoreOnlyTheirRegisters := by
  intro i s t a hp h word hword
  refine byteAt_congr (?_ : t.registerAt word = s.registerAt word)
  clear_value word
  cases i with
  | init prescale period =>
    obtain ⟨hpr, (hmr : word ≠ mrAddr s.cfg periodReg), hler⟩ := hword
    obtain ⟨-, u, w, hu, hw, rfl⟩ := execInit_next h
    cases (busWrite_prAddr hp _).symm.trans hu
    cases (busWrite_mrAddr (by simpa using hp) _ _).symm.trans hw
    rw [registerAt_advance, registerAt_setInited, registerAt_stageAndLatch (by simpa using hmr) (by simpa using hler),
      registerAt_timerTurn (by simpa using hler), registerAt_setPr hpr]
  | setper period =>
    obtain ⟨(hmr : word ≠ mrAddr s.cfg periodReg), hler⟩ := hword
    obtain ⟨-, u, hu, rfl⟩ := execSetper_next h
    cases (busWrite_mrAddr hp _ _).symm.trans hu
    rw [registerAt_advance, registerAt_stageAndLatch hmr hler]
  | setmatch pin v =>
    obtain ⟨(hmr : ∀ c : Channel, pin.chan.toNat = c.val + 1 → word ≠ mrAddr s.cfg (channelReg c)), hler⟩ := hword
    obtain ⟨-, ⟨code, rfl⟩ | ⟨q, c, u, hq, hc, -, hu, rfl⟩⟩ := execSetmatch_next h
    · rfl
    · cases (busWrite_mrAddr hp _ _).symm.trans hu
      rw [registerAt_advance, registerAt_stageAndLatch (hmr c (resolvePin_chan hq hc)) hler]
  | attach pin v =>
    obtain ⟨(hmr : ∀ c : Channel, pin.chan.toNat = c.val + 1 → word ≠ mrAddr s.cfg (channelReg c)), hler, hpcr⟩ := hword
    obtain ⟨-, ⟨code, rfl⟩ | hdone⟩ := exec_next h
    · rfl
    · cases hdone with
      | query hi => exact hi.elim
      | attach port n c hc hu =>
        cases (busWrite_mrAddr hp _ _).symm.trans hu
        rw [registerAt_attached (by simpa [latched] using hler) (by simpa [latched] using hpcr), latched,
          registerAt_timerTurn (by simpa using hler), registerAt_stageAndLatch (hmr c hc) hler]
  | detach pin =>
    obtain ⟨hler, hpcr⟩ := hword
    obtain ⟨-, ⟨code, rfl⟩ | hdone⟩ := exec_next h
    · rfl
    · cases hdone with
      | query hi => exact hi.elim
      | detach port c => exact registerAt_detached hler hpcr port c
  | mrwr pin v =>
    have hmr : ∀ c : Channel, pin.chan.toNat = c.val + 1 → word ≠ mrAddr s.cfg (channelReg c) := hword
    obtain ⟨-, ⟨code, rfl⟩ | ⟨q, c, u, hq, hc, hu, rfl⟩⟩ := execMrwr_next h
    · rfl
    · cases (busWrite_mrAddr hp _ _).symm.trans hu
      rw [registerAt_advance, registerAt_setMr (hmr c (resolvePin_chan hq hc))]
  | pinact | chact | feat | mraddr | bitidx | markact | markinact | mrrd =>
    obtain ⟨-, ⟨code, rfl⟩ | hdone⟩ := exec_next h
    · rfl
    · cases hdone <;> rfl

/-! ## R53: the bytes of a handle write -/

/-- R8(g): the address of a match register is a multiple of 4. -/
theorem mrAddr_aligned (hp : paramsAccepted p = true) (i : Fin 7) : (mrAddr p i).toNat % 4 = 0 := by
  have haligned := (legalParams_of_accepted hp).aligned
  simp only [List.forall_mem_cons] at haligned
  obtain ⟨hbase, hlow, hhigh, -⟩ := haligned
  have hrun : (runOffset p i).toNat % 4 = 0 := by
    unfold runOffset
    split
    · exact hhigh
    · exact hlow
  have hindex : ∀ i : Fin 7, (4 * BitVec.ofNat 32 i.val : Word).toNat % 4 = 0 := by decide
  have hi := hindex i
  simp only [mrAddr, BitVec.toNat_add]
  omega

theorem and_not_add_and {n : Nat} (w m : BitVec n) : (w &&& ~~~ m) + (w &&& m) = w := by
  rw [BitVec.add_eq_or_of_and_eq_zero]
  all_goals
    ext i hi
    cases hm : m[i] <;> simp [hm]

/-- Byte k of an aligned word: its place in the word, and the word's address. -/
theorem aligned_add_byte {w : Word} (hw : w.toNat % 4 = 0) {k : Nat} (hk : k < 4) :
    (w + BitVec.ofNat 32 k) &&& ~~~ 3#32 = w ∧ ((w + BitVec.ofNat 32 k) &&& 3#32).toNat = k := by
  have hplace : ((w + BitVec.ofNat 32 k) &&& 3#32).toNat = k := by
    rw [BitVec.toNat_and, show (3#32 : Word).toNat = 2 ^ 2 - 1 from rfl, Nat.and_two_pow_sub_one_eq_mod, BitVec.toNat_add,
      BitVec.toNat_ofNat]
    omega
  have hbyte : (w + BitVec.ofNat 32 k) &&& 3#32 = BitVec.ofNat 32 k :=
    BitVec.eq_of_toNat_eq (by rw [hplace, BitVec.toNat_ofNat]; omega)
  have hsum := and_not_add_and (w + BitVec.ofNat 32 k) 3#32
  rw [hbyte] at hsum
  exact ⟨add_right_cancel hsum, hplace⟩

theorem byteAt_aligned {w : Word} (hw : w.toNat % 4 = 0) {k : Nat} (hk : k < 4) :
    s.byteAt (w + BitVec.ofNat 32 k) = (s.registerAt w).map (·.map (·.extractLsb' (8 * k) 8)) := by
  obtain ⟨hword, hbyte⟩ := aligned_add_byte hw hk
  rw [State.byteAt, hword, hbyte]

theorem registerAt_mrAddr (hp : paramsAccepted s.cfg = true) (i : Fin 7) :
    s.registerAt (mrAddr s.cfg i) = some s.mr[i] := by
  rw [State.registerAt, regOf_mrAddr hp]

/-- Settles O52: the match register holds the operand, and its address is aligned. -/
theorem handleWriteStoresLittleEndian : Obligations.HandleWriteStoresLittleEndian := by
  intro s t port n c v hp hf h k hk
  have hstored : exec (.mrwr (pinOf port n c.succ) v) s = .next ((s.setMr c.succ v).advance 2) := by
    simp only [exec, execMrwr, issuePin_channel hf, State.requireChannel, channelReg, busWrite_mrAddr hp, andThen_next_eq]
  cases hstored.symm.trans h
  rw [byteAt_aligned (mrAddr_aligned hp _) hk, registerAt_advance]
  have hmr : (s.setMr c.succ v).registerAt (mrAddr s.cfg c.succ) = some (some v) := by
    simpa using registerAt_mrAddr (s := s.setMr c.succ v) hp c.succ
  rw [hmr]
  rfl

end
end Sys2Proof.Machine
end

section
/-!
PROOFS of 30_encoding.md. A command word is the sum of its five fields (`word_eq_fields`), and `pinWord` builds one from an
opcode and a pin (`toNat_pinWord`); so a word that passes the checks of a pin command is `pinWord` of the pin it holds. From
this `decode_encode_append` and `eq_encode_append_of_decode` say that the decoder and the encoder are inverse, and
`rejects_decode_iff` says where the decoder rejects.
-/

namespace Sys2Proof.Machine

open Sys2Proof Sys2Proof.Laws.CommandWord

/-! ## R71: the fields of a word -/

section
variable {w op : Word} {p : Pin}

/-- The pin triple that the fields of a command word name. -/
def pinField (w : Word) : Pin where
  port := fieldPort w
  pinno := fieldPin w
  chan := fieldChan w

theorem fieldOp_toNat (w : Word) : (fieldOp w).toNat = w.toNat % 16 := by
  simp [fieldOp]

theorem fieldPort_toNat (w : Word) : (fieldPort w).toNat = w.toNat / 16 % 8 := by
  simp [fieldPort, Nat.shiftRight_eq_div_pow]

theorem fieldPin_toNat (w : Word) : (fieldPin w).toNat = w.toNat / 128 % 32 := by
  simp [fieldPin, Nat.shiftRight_eq_div_pow]

theorem fieldChan_toNat (w : Word) : (fieldChan w).toNat = w.toNat / 4096 % 8 := by
  simp [fieldChan, Nat.shiftRight_eq_div_pow]

theorem fieldRsv_toNat (w : Word) : (fieldRsv w).toNat = w.toNat / 32768 := by
  simp only [fieldRsv, BitVec.extractLsb'_toNat, Nat.shiftRight_eq_div_pow]
  omega

/-- The five fields cover a word. -/
theorem word_eq_fields (w : Word) :
    w.toNat = (fieldOp w).toNat + 16 * (fieldPort w).toNat + 128 * (fieldPin w).toNat + 4096 * (fieldChan w).toNat
      + 32768 * (fieldRsv w).toNat := by
  rw [fieldOp_toNat, fieldPort_toNat, fieldPin_toNat, fieldChan_toNat, fieldRsv_toNat]
  omega

/-- A field placed at bit `k` of a word that has room for it. -/
theorem toNat_setWidth_shiftLeft {n : Nat} (v : BitVec n) (k : Nat) (hn : n + k ≤ 32) :
    (v.setWidth 32 <<< k).toNat = 2 ^ k * v.toNat := by
  have hlt : v.toNat * 2 ^ k < 2 ^ 32 :=
    calc v.toNat * 2 ^ k < 2 ^ n * 2 ^ k := Nat.mul_lt_mul_of_pos_right v.isLt (Nat.two_pow_pos k)
      _ = 2 ^ (n + k) := (pow_add 2 n k).symm
      _ ≤ 2 ^ 32 := Nat.pow_le_pow_right (by decide) hn
  rw [BitVec.toNat_shiftLeft, BitVec.toNat_setWidth_of_le (by omega), Nat.shiftLeft_eq, Nat.mod_eq_of_lt hlt, Nat.mul_comm]

/-- R82: the fields of a pin command word do not overlap, so their OR is their sum. -/
theorem toNat_pinWord (hop : op.toNat < 16) (p : Pin) :
    (pinWord op p).toNat = op.toNat + 16 * p.port.toNat + 128 * p.pinno.toNat + 4096 * p.chan.toNat := by
  have hport := p.port.isLt
  have hpin := p.pinno.isLt
  have hchan := p.chan.isLt
  have hportBits := Nat.two_pow_add_eq_or_of_lt (i := 4) hop p.port.toNat
  have hpinBits := Nat.two_pow_add_eq_or_of_lt (i := 7) (b := 2 ^ 4 * p.port.toNat + op.toNat) (by omega) p.pinno.toNat
  have hchanBits := Nat.two_pow_add_eq_or_of_lt (i := 12) (b := 2 ^ 7 * p.pinno.toNat + (2 ^ 4 * p.port.toNat + op.toNat))
    (by omega) p.chan.toNat
  rw [pinWord, BitVec.toNat_or, BitVec.toNat_or, BitVec.toNat_or, toNat_setWidth_shiftLeft p.port 4 (by omega),
    toNat_setWidth_shiftLeft p.pinno 7 (by omega), toNat_setWidth_shiftLeft p.chan 12 (by omega)]
  rw [Nat.or_comm op.toNat, ← hportBits, Nat.or_comm _ (2 ^ 7 * _), ← hpinBits, Nat.or_comm _ (2 ^ 12 * _), ← hchanBits]
  omega

theorem pinField_pinWord (hop : op.toNat < 16) (p : Pin) : pinField (pinWord op p) = p := by
  have hport := p.port.isLt
  have hpin := p.pinno.isLt
  have hchan := p.chan.isLt
  have hw := toNat_pinWord hop p
  have hportField : fieldPort (pinWord op p) = p.port := BitVec.eq_of_toNat_eq (by rw [fieldPort_toNat]; omega)
  have hpinField : fieldPin (pinWord op p) = p.pinno := BitVec.eq_of_toNat_eq (by rw [fieldPin_toNat]; omega)
  have hchanField : fieldChan (pinWord op p) = p.chan := BitVec.eq_of_toNat_eq (by rw [fieldChan_toNat]; omega)
  rw [pinField, hportField, hpinField, hchanField]

/-- R75: a word without reserved bits is the command word of its opcode and its pin. -/
theorem eq_pinWord_of_fields (hop : (fieldOp w).toNat = op.toNat) (hrsv : fieldRsv w = 0) :
    w = pinWord op (pinField w) := by
  have hw := word_eq_fields w
  rw [hrsv] at hw
  have hlt : op.toNat < 16 := hop ▸ (fieldOp w).isLt
  apply BitVec.eq_of_toNat_eq
  rw [toNat_pinWord hlt]
  simpa [pinField, hop] using hw

/-- R75: a word with nothing but an opcode is that opcode. -/
theorem eq_op_of_fields (hop : (fieldOp w).toNat = op.toNat) (hrsv : fieldRsv w = 0) (hpin : pinField w = ⟨0, 0, 0⟩) :
    w = op := by
  rw [eq_pinWord_of_fields hop hrsv, hpin]
  simp [pinWord]

theorem pinField_eq_zero_iff :
    pinField w = ⟨0, 0, 0⟩ ↔ fieldPort w = 0 ∧ fieldPin w = 0 ∧ fieldChan w = 0 := by
  simp [pinField]

/-- Bits [14:4] hold the pin. -/
theorem pinBits_eq_zero_iff : w.extractLsb' 4 11 = 0 ↔ pinField w = ⟨0, 0, 0⟩ := by
  rw [pinField_eq_zero_iff]
  simp only [← BitVec.toNat_inj, fieldPort_toNat, fieldPin_toNat, fieldChan_toNat, BitVec.extractLsb'_toNat,
    Nat.shiftRight_eq_div_pow, BitVec.ofNat_eq_ofNat, BitVec.toNat_ofNat]
  omega

theorem pin_wellFormed_iff : p.wellFormed = true ↔ p.port.toNat ≤ 4 ∧ p.chan.toNat ≤ 6 := by
  simp [Pin.wellFormed]

end

/-! ## The checks of R73, R75 and R76 -/

/-- R75: what the decoder asks of the fields of a pin-less command word. -/
def PinlessFieldsLegal (w : Word) : Prop := fieldRsv w = 0 ∧ pinField w = ⟨0, 0, 0⟩

/-- R72, R75: what the decoder asks of the fields of a pin command word. -/
def PinFieldsLegal (w : Word) : Prop := fieldRsv w = 0 ∧ (pinField w).wellFormed = true

/-- The decoder answers an error, whichever it is. -/
def Rejects (o : Except DecodeError (Instr × List Word)) : Prop := ∃ e, o = .error e

section
variable {w op : Word} {ws : List Word} {r : Instr × List Word}

@[simp] theorem rejects_error (e : DecodeError) : Rejects (.error e) := ⟨e, rfl⟩

@[simp] theorem not_rejects_ok (r : Instr × List Word) : ¬ Rejects (.ok r) := nofun

theorem Rejects.ne_ok {o : Except DecodeError (Instr × List Word)} (h : Rejects o) : o ≠ .ok r := by
  rintro rfl
  exact not_rejects_ok r h

/-- The pin-less check passes the word on, or rejects it. -/
theorem withNoPin_cases (w : Word) (k : Except DecodeError (Instr × List Word)) :
    (PinlessFieldsLegal w ∧ withNoPin w k = k) ∨ (¬ PinlessFieldsLegal w ∧ Rejects (withNoPin w k)) := by
  unfold withNoPin PinlessFieldsLegal
  rw [pinField_eq_zero_iff]
  split
  · exact .inr ⟨fun h => absurd h.1 ‹_›, rejects_error _⟩
  · split
    · exact .inr ⟨by tauto, rejects_error _⟩
    · exact .inl ⟨by tauto, rfl⟩

/-- The pin check passes the pin on, or rejects the word. -/
theorem withPin_cases (w : Word) (k : Pin → Except DecodeError (Instr × List Word)) :
    (PinFieldsLegal w ∧ withPin w k = k (pinField w)) ∨ (¬ PinFieldsLegal w ∧ Rejects (withPin w k)) := by
  unfold withPin PinFieldsLegal
  rw [pin_wellFormed_iff]
  split
  · exact .inr ⟨fun h => absurd h.1 ‹_›, rejects_error _⟩
  · split
    · exact .inr ⟨by simp only [pinField]; omega, rejects_error _⟩
    · split
      · exact .inr ⟨by simp only [pinField]; omega, rejects_error _⟩
      · exact .inl ⟨⟨not_not.mp ‹_›, by simp only [pinField]; omega⟩, rfl⟩

theorem withNoPin_ok_iff {k : Except DecodeError (Instr × List Word)} :
    withNoPin w k = .ok r ↔ PinlessFieldsLegal w ∧ k = .ok r := by
  obtain ⟨hw, h⟩ | ⟨hw, h⟩ := withNoPin_cases w k
  · simp [hw, h]
  · simp [hw, h.ne_ok]

theorem withPin_ok_iff {k : Pin → Except DecodeError (Instr × List Word)} :
    withPin w k = .ok r ↔ PinFieldsLegal w ∧ k (pinField w) = .ok r := by
  obtain ⟨hw, h⟩ | ⟨hw, h⟩ := withPin_cases w k
  · simp [hw, h]
  · simp [hw, h.ne_ok]

theorem rejects_withNoPin_iff {k : Except DecodeError (Instr × List Word)} :
    Rejects (withNoPin w k) ↔ ¬ PinlessFieldsLegal w ∨ Rejects k := by
  obtain ⟨hw, h⟩ | ⟨hw, h⟩ := withNoPin_cases w k
  · simp [hw, h]
  · simp [hw, h]

theorem rejects_withPin_iff {k : Pin → Except DecodeError (Instr × List Word)} :
    Rejects (withPin w k) ↔ ¬ PinFieldsLegal w ∨ Rejects (k (pinField w)) := by
  obtain ⟨hw, h⟩ | ⟨hw, h⟩ := withPin_cases w k
  · simp [hw, h]
  · simp [hw, h]

/-- One operand word more than the `n` words the rest of the command needs. -/
theorem rejects_withOperand_iff {k : Word → List Word → Except DecodeError (Instr × List Word)} {n : Nat}
    (hk : ∀ v rest, Rejects (k v rest) ↔ rest.length < n) : Rejects (withOperand ws k) ↔ ws.length < n + 1 := by
  cases ws with
  | nil => simp [withOperand]
  | cons v rest => simpa [withOperand] using hk v rest

theorem rejects_withOperand_last {k : Word → List Word → Instr × List Word} :
    Rejects (withOperand ws fun v rest => .ok (k v rest)) ↔ ws.length < 1 :=
  rejects_withOperand_iff fun _ _ => by simp

/-- The pin check takes the word of a legal pin command apart. -/
theorem withPin_pinWord (hop : op.toNat < 16) {p : Pin} (hp : p.wellFormed = true)
    (k : Pin → Except DecodeError (Instr × List Word)) : withPin (pinWord op p) k = k p := by
  have hpin := pinField_pinWord hop p
  have hword : PinFieldsLegal (pinWord op p) := ⟨fieldRsv_pinWord op hop p, by rwa [hpin]⟩
  obtain ⟨-, h⟩ | ⟨hn, -⟩ := withPin_cases (pinWord op p) k
  · rw [h, hpin]
  · exact absurd hword hn

end

/-! ## R74: the decoder and the encoder -/

theorem decode_encode_append {i : Instr} (h : i.wellFormed = true) (rest : List Word) :
    decode (encode i ++ rest) = .ok (i, rest) := by
  cases i with
  | init prescale period | setper period => rfl
  | attach pin v | setmatch pin v | mrwr pin v =>
    simp [encode, decode, fieldOp_pinWord, withPin_pinWord (p := pin) _ h, withOperand]
  | _ pin => simp [encode, decode, fieldOp_pinWord, withPin_pinWord (p := pin) _ h]

theorem eq_encode_append_of_decode {ws rest : List Word} {i : Instr} (h : decode ws = .ok (i, rest)) :
    i.wellFormed = true ∧ ws = encode i ++ rest := by
  unfold decode at h
  split at h
  case h_1 => cases h
  case h_2 w ws =>
    split at h
    case h_1 hop => -- INIT: two operand words
      obtain ⟨⟨hrsv, hzero⟩, h⟩ := withNoPin_ok_iff.mp h
      obtain ⟨_, _, rfl, hperiod⟩ := withOperand_ok h
      obtain ⟨_, _, rfl, hok⟩ := withOperand_ok hperiod
      cases hok
      exact ⟨rfl, congrArg (· :: _) (eq_op_of_fields hop hrsv hzero)⟩
    case h_2 hop => -- SETPER: one operand word
      obtain ⟨⟨hrsv, hzero⟩, h⟩ := withNoPin_ok_iff.mp h
      obtain ⟨_, _, rfl, h⟩ := withOperand_ok h
      cases h
      exact ⟨rfl, congrArg (· :: _) (eq_op_of_fields hop hrsv hzero)⟩
    case h_3 hop | h_4 hop | h_14 hop => -- a pin and one operand word
      obtain ⟨⟨hrsv, hpin⟩, h⟩ := withPin_ok_iff.mp h
      obtain ⟨_, _, rfl, h⟩ := withOperand_ok h
      cases h
      exact ⟨hpin, congrArg (· :: _) (eq_pinWord_of_fields hop hrsv)⟩
    case h_15 => cases h
    all_goals -- a pin alone
      obtain ⟨⟨hrsv, hpin⟩, h⟩ := withPin_ok_iff.mp h
      cases h
      exact ⟨hpin, congrArg (· :: _) (eq_pinWord_of_fields ‹_› hrsv)⟩

/-- The number of operand words of the command with opcode `op`, R73. -/
def operandWords (op : Nat) : Nat := if op = 1 then 2 else if op = 2 ∨ op = 3 ∨ op = 4 ∨ op = 14 then 1 else 0

theorem rejects_decode_iff (w : Word) (ws : List Word) :
    Rejects (decode (w :: ws)) ↔ (fieldOp w).toNat = 0 ∨ (fieldOp w).toNat = 15
      ∨ (((fieldOp w).toNat = 1 ∨ (fieldOp w).toNat = 2) ∧ ¬ PinlessFieldsLegal w)
      ∨ (3 ≤ (fieldOp w).toNat ∧ (fieldOp w).toNat ≤ 14 ∧ ¬ PinFieldsLegal w)
      ∨ ws.length < operandWords (fieldOp w).toNat := by
  have hlt := (fieldOp w).isLt
  unfold decode
  dsimp only
  split
  case h_1 hop => -- INIT
    rw [rejects_withNoPin_iff, rejects_withOperand_iff fun _ _ => rejects_withOperand_last]
    simp [hop, operandWords]
  case h_2 hop => -- SETPER
    rw [rejects_withNoPin_iff, rejects_withOperand_last]
    simp [hop, operandWords]
  case h_3 hop | h_4 hop | h_14 hop => -- a pin and one operand word
    rw [rejects_withPin_iff, rejects_withOperand_last]
    simp [hop, operandWords]
  case h_15 => -- no command
    simp only [rejects_error, true_iff, imp_false] at *
    omega
  all_goals -- a pin alone
    rw [rejects_withPin_iff]
    simp [‹(fieldOp w).toNat = _›, operandWords]

theorem not_pinlessFieldsLegal_iff {w : Word} :
    ¬ PinlessFieldsLegal w ↔ fieldRsv w ≠ 0 ∨ w.extractLsb' 4 11 ≠ 0 := by
  rw [PinlessFieldsLegal, not_and_or, ne_eq, ne_eq, pinBits_eq_zero_iff]

theorem not_pinFieldsLegal_iff {w : Word} :
    ¬ PinFieldsLegal w ↔ fieldRsv w ≠ 0 ∨ 4 < (fieldPort w).toNat ∨ (fieldChan w).toNat = 7 := by
  have hchan := (fieldChan w).isLt
  rw [PinFieldsLegal, not_and_or, pin_wellFormed_iff]
  refine or_congr_right ?_
  simp only [pinField]
  omega

/-- R76: the listed cases. -/
theorem rejects_decode_iff_listed (w : Word) (ws : List Word) :
    Rejects (decode (w :: ws)) ↔ (fieldOp w).toNat = 0 ∨ (fieldOp w).toNat = 15 ∨ fieldRsv w ≠ 0
      ∨ (((fieldOp w).toNat = 1 ∨ (fieldOp w).toNat = 2) ∧ w.extractLsb' 4 11 ≠ 0)
      ∨ (3 ≤ (fieldOp w).toNat ∧ (fieldOp w).toNat ≤ 14 ∧ (4 < (fieldPort w).toNat ∨ (fieldChan w).toNat = 7))
      ∨ ws.length < operandWords (fieldOp w).toNat := by
  have hlt := (fieldOp w).isLt
  rw [rejects_decode_iff, not_pinlessFieldsLegal_iff, not_pinFieldsLegal_iff]
  by_cases hrsv : fieldRsv w = 0
  · simp only [hrsv, ne_eq, not_true_eq_false, false_or]
  · simp only [hrsv, ne_eq, not_false_eq_true, true_or, or_true, and_true, iff_true]
    omega

section
variable {s : State}

theorem callerAction_of_decode_error {e : DecodeError} (hread : s.resultReads.head? ≠ some s.pc)
    (hpc : s.pc < s.program.length) (hdecode : decode (s.program.drop s.pc) = .error e) :
    s.callerAction = .illegal e := by
  rw [State.callerAction, if_neg hread, if_neg (Nat.not_le.mpr hpc), hdecode]

/-- R76: a step at an illegal word only records the fault, after the timer's turn. -/
theorem step_of_illegal {e : DecodeError} (hr : s.refusal? = none) (hf : s.fault = none)
    (hi : s.callerAction = .illegal e) : step s = .next (s.timerTurn.raiseFault .illegalEncoding) := by
  rw [step_of_running hr hf, callerTurn, callerAction_timerTurn, hi]

end

/-! ## R72: the pins -/

section
variable (port : Fin 5) (n : Fin 32) (chan : Fin 7)

@[simp] theorem pinOf_port_toNat : (pinOf port n chan).port.toNat = port.val :=
  Nat.mod_eq_of_lt (by omega)

@[simp] theorem pinOf_pinno_toNat : (pinOf port n chan).pinno.toNat = n.val :=
  Nat.mod_eq_of_lt n.isLt

@[simp] theorem pinOf_chan_toNat : (pinOf port n chan).chan.toNat = chan.val :=
  Nat.mod_eq_of_lt (by omega)

theorem pinOf_wellFormed : (pinOf port n chan).wellFormed = true := by
  rw [pin_wellFormed_iff, pinOf_port_toNat, pinOf_chan_toNat]
  omega

end

/-- The fields of a legal pin, read as numbers, are its triple. -/
theorem pinOf_of_wellFormed {p : Pin} (hport : p.port.toNat < 5) (hchan : p.chan.toNat < 7) :
    p = pinOf ⟨p.port.toNat, hport⟩ p.pinno.toFin ⟨p.chan.toNat, hchan⟩ := by
  simp [pinOf]

theorem pinOf_injective {port port' : Fin 5} {n n' : Fin 32} {chan chan' : Fin 7}
    (h : pinOf port n chan = pinOf port' n' chan') : port = port' ∧ n = n' ∧ chan = chan' := by
  have hport := congrArg (·.port.toNat) h
  have hpin := congrArg (·.pinno.toNat) h
  have hchan := congrArg (·.chan.toNat) h
  simp only [pinOf_port_toNat, pinOf_pinno_toNat, pinOf_chan_toNat] at hport hpin hchan
  exact ⟨Fin.ext hport, Fin.ext hpin, Fin.ext hchan⟩

/-! ## The statements -/

/-- Settles O2: the fields of `pinWord` are those the encoder put there, and pass the decoder's checks. -/
theorem decodeOfEncodeIsIdentity : Obligations.DecodeOfEncodeIsIdentity :=
  fun _ rest h => decode_encode_append h rest

/-- Settles O3: a word that passes the checks has no bits but those of its opcode and its pin. -/
theorem onlyEncodingsDecode : Obligations.OnlyEncodingsDecode := fun _ _ _ => eq_encode_append_of_decode

/-- Settles O4: the cases are those of the decoder's checks, and the caller's turn at such a word only raises the fault. -/
theorem illegalWordsAreExactlyTheListed : Obligations.IllegalWordsAreExactlyTheListed :=
  ⟨rejects_decode_iff_listed, fun _ _ hr hf hread hpc hdecode =>
    step_of_illegal hr hf (callerAction_of_decode_error hread hpc hdecode)⟩

/-- Settles O5: `pinOf` keeps each number of the triple in a field of its own. -/
theorem everyLegalPinIsATriple : Obligations.EveryLegalPinIsATriple := by
  refine ⟨fun p hp => ?_, pinOf_wellFormed, fun _ _ _ _ _ _ => pinOf_injective⟩
  obtain ⟨hport, hchan⟩ := pin_wellFormed_iff.mp hp
  exact ⟨_, _, _, pinOf_of_wellFormed (by omega) (by omega)⟩

/-- Settles O1: each list is the encoding of its command. -/
theorem specExampleWordsDecode : Obligations.SpecExampleWordsDecode :=
  ⟨decode_encode_append (i := .init 0 1000) rfl [],
    decode_encode_append (i := .setper 20000) rfl [],
    decode_encode_append (i := .attach ⟨1, 21, 3⟩ 500) rfl [],
    decode_encode_append (i := .detach ⟨1, 21, 3⟩) rfl [],
    decode_encode_append (i := .chact ⟨2, 2, 3⟩) rfl [],
    decode_encode_append (i := .feat ⟨0, 0, 0⟩) rfl [],
    decode_encode_append (i := .mraddr ⟨2, 5, 6⟩) rfl []⟩

end Sys2Proof.Machine
end

section
/-!
PROOFS of 40_resolver.md. FEAT takes its answer from the port alone, so a pin with a channel and one with channel 0 are
answered alike.
-/

namespace Sys2Proof.Machine

open Sys2Proof

section
variable {s : State}

/-- A meaning that does not look at the channel runs the same on channel 0 and on the channels 1 to 6. -/
theorem issuePin_of_port_pinno (hf : s.fault = none) (port : Fin 5) (n : Fin 32) (chan : Fin 7)
    (k : Fin 5 → Fin 32 → Result) :
    (s.issuePin (pinOf port n chan) fun q => k q.port q.pinno) = k port n := by
  cases chan using Fin.cases with
  | zero => rw [issuePin_zero hf]
  | succ c => rw [issuePin_channel hf]

/-- R101: FEAT on a legal pin answers with the port's feature code. -/
theorem exec_feat_pinOf (hf : s.fault = none) (port : Fin 5) (n : Fin 32) (chan : Fin 7) :
    exec (.feat (pinOf port n chan)) s = s.answer (sext32 (featureCode s.cfg port)) :=
  issuePin_of_port_pinno hf port n chan fun port _ => s.answer (sext32 (featureCode s.cfg port))

end

/-- Settles O17: every legal pin is answered from its port, and any other pin is stopped before the command's meaning. -/
theorem featReportsThePortsCode : Obligations.FeatReportsThePortsCode :=
  ⟨fun _ => rfl, fun _ hf => ⟨exec_feat_pinOf hf, fun _ hp => issuePin_illegal hf hp _⟩⟩

end Sys2Proof.Machine
end

section
/-!
PROOFS of 41_register_access.md. A command of this layer on a legal pin either has a channel, and is then its one access at
the channel's match register, or faults (`issuePin_requireChannel_succ`, `issuePin_requireChannel_zero`). The addresses
themselves (R110) are the sums that R8(h) bounds, so none wraps.
-/

namespace Sys2Proof.Machine

open Sys2Proof

/-! ## R110: the addresses -/

section
variable {p : Params}

/-- R8(h): the address of a match register is the sum of its parts as numbers. -/
theorem toNat_mrAddr (hp : paramsAccepted p = true) (i : Fin 7) :
    (mrAddr p i).toNat = p.base.toNat + (runOffset p i).toNat + 4 * i.val := by
  have hsum : p.base.toNat + (runOffset p i).toNat + 4 * i.val < 2 ^ 32 := (legalParams_of_accepted hp).matchNoWrap i
  have hindex : ∀ i : Fin 7, (4 * BitVec.ofNat 32 i.val : Word).toNat = 4 * i.val := by decide
  rw [mrAddr, BitVec.toNat_add, BitVec.toNat_add_of_lt (by omega), hindex i, Nat.mod_eq_of_lt hsum]

/-- R8(g), (h): the address of PR, PCR or LER is the sum of base and offset as numbers, and aligned. -/
theorem toNat_fixedAddr (hp : paramsAccepted p = true) {offset : Word} (ho : offset ∈ [p.prOffset, p.pcrOffset, p.lerOffset]) :
    (p.base + offset).toNat = p.base.toNat + offset.toNat ∧ (p.base + offset).toNat % 4 = 0 := by
  have hlegal := legalParams_of_accepted hp
  have hsum := BitVec.toNat_add_of_lt (hlegal.fixedNoWrap offset ho)
  have hbase := hlegal.aligned p.base (by simp)
  have hoffset := hlegal.aligned offset (by simp only [List.mem_cons] at ho ⊢; tauto)
  exact ⟨hsum, by omega⟩

/-- R111: registers 3 and 4 lie in different runs. -/
theorem mrAddr_four_sub_three (p : Params) : mrAddr p 4 - mrAddr p 3 = p.highOffset - p.lowOffset + 4 := by
  have h4 : mrAddr p 4 = p.base + p.highOffset + 16 := rfl
  have h3 : mrAddr p 3 = p.base + p.lowOffset + 12 := rfl
  rw [h4, h3]
  bv_omega

end

section
variable {s : State}

/-! ## A command that needs a channel, on a legal pin -/

theorem issuePin_requireChannel_succ (hf : s.fault = none) (port : Fin 5) (n : Fin 32) (c : Channel)
    (k : PhysPin → Channel → Result) :
    (s.issuePin (pinOf port n c.succ) fun q => s.requireChannel q (k q)) = k ⟨port, n, some c⟩ c :=
  issuePin_channel hf port n c _

theorem issuePin_requireChannel_zero (hf : s.fault = none) (port : Fin 5) (n : Fin 32) (k : PhysPin → Channel → Result) :
    (s.issuePin (pinOf port n 0) fun q => s.requireChannel q (k q)) = .next (s.raiseFault .channelZero) :=
  issuePin_zero hf port n _

/-- R111: MRADDR on a pin with a channel answers with the address. -/
theorem exec_mraddr_succ (hf : s.fault = none) (port : Fin 5) (n : Fin 32) (c : Channel) :
    exec (.mraddr (pinOf port n c.succ)) s = s.answer (mrAddr s.cfg (channelReg c)) :=
  issuePin_requireChannel_succ hf port n c fun _ c => s.answer (mrAddr s.cfg (channelReg c))

/-- R113: MRWR on a pin with a channel stages its operand. -/
theorem exec_mrwr_succ (hp : paramsAccepted s.cfg = true) (hf : s.fault = none) (port : Fin 5) (n : Fin 32) (c : Channel)
    (v : Word) : exec (.mrwr (pinOf port n c.succ) v) s = .next ((s.setMr (channelReg c) v).advance 2) := by
  rw [exec, execMrwr, issuePin_requireChannel_succ hf, busWrite_mrAddr hp, andThen_next_eq]

/-! ## R112: the read through the handle -/

section
variable {i : Fin 7} {m v : Word}

theorem mem_readCandidates_staged (hsrc : s.cfg.mrReadSource = .staged) (hm : s.mr[i] = some m) :
    v ∈ s.readCandidates i ↔ v = m := by
  simp [State.readCandidates, hsrc, hm, eq_comm]

theorem mem_readCandidates_applied (hsrc : s.cfg.mrReadSource = .applied) (hm : s.mr[i] = some m) :
    v ∈ s.readCandidates i ↔ v = s.applied[i].getD m := by
  simp only [State.readCandidates, hsrc, hm]
  cases s.applied[i] <;> simp [eq_comm]

theorem mem_readCandidates_either (hsrc : s.cfg.mrReadSource = .either) (hm : s.mr[i] = some m) :
    v ∈ s.readCandidates i ↔ v = m ∨ s.applied[i] = some v := by
  simp [State.readCandidates, hsrc, hm, eq_comm]

end

theorem requireStaged_of_some {i : Fin 7} {m : Word} (hm : s.mr[i] = some m) (k : Result) : s.requireStaged i k = k := by
  simp [State.requireStaged, hm]

theorem requireStaged_of_none {i : Fin 7} (hm : s.mr[i] = none) (k : Result) :
    s.requireStaged i k = .next (s.raiseFault .readUnwritten) := by
  simp [State.requireStaged, hm]

/-- R112: MRRD on a register that holds a staged value answers with a candidate. -/
theorem exec_mrrd_of_staged (hp : paramsAccepted s.cfg = true) (hf : s.fault = none) (port : Fin 5) (n : Fin 32)
    {c : Channel} {m : Word} (hm : s.mr[channelReg c] = some m) :
    ∃ v ∈ s.readCandidates (channelReg c), exec (.mrrd (pinOf port n c.succ)) s = s.countDraw.answer v := by
  obtain ⟨v, hv, hread⟩ := busRead_mrAddr hp (Option.isSome_of_eq_some hm) fun v s1 => s1.answer v
  refine ⟨v, hv, ?_⟩
  rw [exec, execMrrd, issuePin_requireChannel_succ hf, requireStaged_of_some hm, hread]

/-- R112: MRRD on a register that was never written. -/
theorem exec_mrrd_of_unwritten (hf : s.fault = none) (port : Fin 5) (n : Fin 32) {c : Channel}
    (hm : s.mr[channelReg c] = none) :
    exec (.mrrd (pinOf port n c.succ)) s = .next (s.raiseFault .readUnwritten) := by
  rw [exec, execMrrd, issuePin_requireChannel_succ hf, requireStaged_of_none hm]

end

/-! ## The statements -/

/-- Settles O19: the read gives a candidate, and each read source has its own list of candidates. -/
theorem mrrdReadsACandidate : Obligations.MrrdReadsACandidate := by
  intro s hp hf port n c
  refine ⟨fun m hm => ?_, exec_mrrd_of_unwritten hf port n, issuePin_requireChannel_zero hf port n _⟩
  obtain ⟨v, hv, hexec⟩ := exec_mrrd_of_staged hp hf port n hm
  refine ⟨v, ?_, hexec⟩
  cases hsrc : s.cfg.mrReadSource with
  | staged => exact (mem_readCandidates_staged hsrc hm).mp hv
  | applied => exact (mem_readCandidates_applied hsrc hm).mp hv
  | either => exact (mem_readCandidates_either hsrc hm).mp hv

/-- Settles O30: the write leaves the request bits alone, and a boundary adopts what it finds requested. -/
theorem mrwrStagesWithoutLatch : Obligations.MrwrStagesWithoutLatch := by
  refine ⟨fun _ _ => rfl, fun s hp hf port n v => ⟨fun c => ?_, issuePin_requireChannel_zero hf port n _,
    fun _ hpin => issuePin_illegal hf hpin _⟩⟩
  refine ⟨_, exec_mrwr_succ hp hf port n c v, rfl, ?_⟩
  rw [boundary_applied_get]
  simp [channelReg]

/-- Settles O49: the address sums stay below 2^32, and their parts are multiples of 4. -/
theorem registerAddressesAlignedAndUnwrapped : Obligations.RegisterAddressesAlignedAndUnwrapped := by
  intro p hp
  obtain ⟨hpr, hprAligned⟩ := toNat_fixedAddr hp (offset := p.prOffset) (by simp)
  obtain ⟨hpcr, hpcrAligned⟩ := toNat_fixedAddr hp (offset := p.pcrOffset) (by simp)
  obtain ⟨hler, hlerAligned⟩ := toNat_fixedAddr hp (offset := p.lerOffset) (by simp)
  exact ⟨fun i => ⟨toNat_mrAddr hp i, mrAddr_aligned hp i⟩, hpr, hprAligned, hpcr, hpcrAligned, hler, hlerAligned⟩

/-- Settles O18: MRADDR answers with `mrAddr`, which R110 writes out. -/
theorem mraddrReportsTheAddress : Obligations.MraddrReportsTheAddress :=
  ⟨fun _ => rfl, mrAddr_four_sub_three, fun _ hf => ⟨exec_mraddr_succ hf,
    fun port n => issuePin_requireChannel_zero hf port n _, fun _ hpin => issuePin_illegal hf hpin _⟩⟩

end Sys2Proof.Machine
end

section
/-!
PROOFS of 42_registry.md. A command of the registry on a legal pin is its one access to ACTIVE or RESULT, and a channel is
owned exactly if some port's bit of it is set (`channelOwned_iff`); what MARKACT and MARKINACT do to the owners of a channel
gives the laws, and the hazards of 70_reset_and_hazards.md section 3.
-/

namespace Sys2Proof.Machine

open Sys2Proof

/-! ## R120 to R123: bits, masks and activity -/

section
variable (active : Word) (port : Fin 5) (n : Fin 32) (c : Channel)

@[simp] theorem pinActive_none : pinActive active ⟨port, n, none⟩ = false := rfl

@[simp] theorem pinActive_some : pinActive active ⟨port, n, some c⟩ = ownsChannel active port c := rfl

@[simp] theorem channelActive_none : channelActive active ⟨port, n, none⟩ = false := rfl

@[simp] theorem channelActive_some : channelActive active ⟨port, n, some c⟩ = channelOwned active c := rfl

theorem channelOwned_iff_mask : channelOwned active c = true ↔ active &&& chmask c ≠ 0 := bne_iff_ne

/-- R129(b): a channel is active exactly if a pin of some port with it is, whatever the pin numbers. -/
theorem channelActive_iff_pinActive (m : Fin 32) (chan : Option Channel) :
    channelActive active ⟨port, n, chan⟩ = true ↔ ∃ p : Fin 5, pinActive active ⟨p, m, chan⟩ = true := by
  cases chan with
  | none => simp
  | some c => simp [channelOwned_iff]

/-- R129(d): an active pin keeps its channel active. -/
theorem channelActive_of_pinActive {q : PhysPin} (h : pinActive active q = true) : channelActive active q = true :=
  (channelActive_iff_pinActive active q.port q.pinno q.pinno q.channel).mpr ⟨q.port, h⟩

/-- R129(c): in the empty registry no pin is active. -/
theorem pinActive_empty (q : PhysPin) : pinActive 0 q = false := by
  obtain ⟨port, n, _ | c⟩ := q
  · rfl
  · simp [ownsChannel]

/-- R129(c): in the empty registry no channel is active. -/
theorem channelActive_empty (q : PhysPin) : channelActive 0 q = false := by
  rw [Bool.eq_false_iff, ne_eq, channelActive_iff_pinActive 0 q.port q.pinno q.pinno]
  rintro ⟨p, hp⟩
  cases (pinActive_empty _).symm.trans hp

end

theorem boolWord_of_iff {b : Bool} {P : Prop} [Decidable P] (h : b = true ↔ P) : boolWord b = if P then 1 else 0 :=
  if_congr h rfl rfl

/-- R128 of the last owner leaves the channel without one. -/
theorem channelOwned_markInactive_last {a : Word} {p : Fin 5} {c : Channel}
    (h : ∀ q, q ≠ p → ownsChannel a q c = false) : channelOwned (a &&& ~~~ bit (bitIndex p c)) c = false := by
  rw [Bool.eq_false_iff, ne_eq, channelOwned_iff]
  rintro ⟨q, hq⟩
  rw [ownsChannel_markInactive] at hq
  by_cases hqp : q = p
  · simp [hqp] at hq
  · simp [h q hqp] at hq

/-- R129(e): R128 takes back what R127 set, where the bit was clear. -/
theorem markInactive_markActive_of_clear {a : Word} {p : Fin 5} {c : Channel} (h : a.getLsbD (bitIndex p c) = false) :
    (a ||| bit (bitIndex p c)) &&& ~~~ bit (bitIndex p c) = a := by
  have hlt := bitIndex_lt p c
  rw [BitVec.and_or_distrib_right, and_not_bit_of_clear (by omega) h, BitVec.and_not_self]
  exact BitVec.or_zero

/-! ## The bits above the registry -/

theorem getLsbD_bit_bitIndex_above {k : Nat} (hk : 30 ≤ k) (p : Fin 5) (c : Channel) :
    (bit (bitIndex p c)).getLsbD k = false := by
  have hlt := bitIndex_lt p c
  rw [getLsbD_bit _ _ (by omega), decide_eq_false_iff_not]
  omega

theorem getLsbD_markActive_above {k : Nat} (hk : 30 ≤ k) (a : Word) (p : Fin 5) (c : Channel) :
    (a ||| bit (bitIndex p c)).getLsbD k = a.getLsbD k := by
  rw [BitVec.getLsbD_or, getLsbD_bit_bitIndex_above hk, Bool.or_false]

theorem getLsbD_markInactive_above {k : Nat} (hk : 30 ≤ k) (a : Word) (p : Fin 5) (c : Channel) :
    (a &&& ~~~ bit (bitIndex p c)).getLsbD k = a.getLsbD k := by
  rw [BitVec.getLsbD_and, BitVec.getLsbD_not, getLsbD_bit_bitIndex_above hk]
  by_cases h32 : k < 32
  · simp [h32]
  · simp [BitVec.getLsbD_of_ge a k (not_lt.mp h32)]

section
variable {s t u : State} {i : Instr}

/-- R23: all that a command can do to ACTIVE is nothing, one set bit, or one cleared bit. -/
theorem Completes.active_cases (h : Completes i s t) :
    t.active = s.active ∨ (∃ p c, t.active = s.active ||| bit (bitIndex p c))
      ∨ ∃ p c, t.active = s.active &&& ~~~ bit (bitIndex p c) := by
  cases h with
  | query => exact .inl rfl
  | markact port c => exact .inr (.inl ⟨port, c, rfl⟩)
  | markinact port c | detach port c => exact .inr (.inr ⟨port, c, rfl⟩)
  | mrwr c hu | setper hu | setmatch c hu =>
    obtain ⟨mr, pr, rfl⟩ := busWrite_frame hu
    exact .inl (by simp)
  | init hu hw =>
    obtain ⟨mr, pr, rfl⟩ := busWrite_frame hu
    obtain ⟨mr', pr', rfl⟩ := busWrite_frame hw
    exact .inl (by simp)
  | attach port n c hc hu =>
    obtain ⟨mr, pr, rfl⟩ := busWrite_frame hu
    exact .inr (.inl ⟨port, c, by simp [attached, latched]⟩)

/-- R129(f), for set and clear alike. -/
theorem exec_active_above (h : exec i s = .next t) {k : Nat} (hk : 30 ≤ k) : t.active.getLsbD k = s.active.getLsbD k := by
  obtain ⟨-, ⟨code, rfl⟩ | hdone⟩ := exec_next h
  · rfl
  · obtain ha | ⟨p, c, ha⟩ | ⟨p, c, ha⟩ := hdone.active_cases
    · rw [ha]
    · rw [ha, getLsbD_markActive_above hk]
    · rw [ha, getLsbD_markInactive_above hk]

/-! ## R124 to R128: the commands on a legal pin -/

theorem exec_bitidx_succ (hf : s.fault = none) (port : Fin 5) (n : Fin 32) (c : Channel) :
    exec (.bitidx (pinOf port n c.succ)) s = s.answer (BitVec.ofNat 32 (bitIndex port c)) :=
  issuePin_requireChannel_succ hf port n c fun q c => s.answer (BitVec.ofNat 32 (bitIndex q.port c))

theorem exec_pinact_succ (hf : s.fault = none) (port : Fin 5) (n : Fin 32) (c : Channel) :
    exec (.pinact (pinOf port n c.succ)) s = s.answer (boolWord (ownsChannel s.active port c)) :=
  issuePin_channel hf port n c _

theorem exec_chact_succ (hf : s.fault = none) (port : Fin 5) (n : Fin 32) (c : Channel) :
    exec (.chact (pinOf port n c.succ)) s = s.answer (boolWord (channelOwned s.active c)) :=
  issuePin_channel hf port n c _

theorem exec_markact_succ (hf : s.fault = none) (port : Fin 5) (n : Fin 32) (c : Channel) :
    exec (.markact (pinOf port n c.succ)) s = .next ((s.markActive port c).advance 1) :=
  issuePin_requireChannel_succ hf port n c fun q c => .next ((s.markActive q.port c).advance 1)

theorem exec_markinact_succ (hf : s.fault = none) (port : Fin 5) (n : Fin 32) (c : Channel) :
    exec (.markinact (pinOf port n c.succ)) s = .next ((s.markInactive port c).advance 1) :=
  issuePin_requireChannel_succ hf port n c fun q c => .next ((s.markInactive q.port c).advance 1)

/-- R145, R173: of ATTACH's checks only NOT_INITIALISED comes before CHANNEL_ZERO. -/
theorem exec_attach_zero (hf : s.fault = none) (hi : s.inited = true) (port : Fin 5) (n : Fin 32) (v : Word) :
    exec (.attach (pinOf port n 0) v) s = .next (s.raiseFault .channelZero) := by
  rw [exec, execAttach, issuePin_zero hf, State.requireInited, if_pos hi, State.requireChannel]

section
variable {port : Fin 5} {n : Fin 32} {c : Channel}

theorem eq_of_exec_markact (h : exec (.markact (pinOf port n c.succ)) s = .next t) :
    s.fault = none ∧ t = (s.markActive port c).advance 1 := by
  have hf := (exec_next h).1
  cases (exec_markact_succ hf port n c).symm.trans h
  exact ⟨hf, rfl⟩

theorem eq_of_exec_markinact (h : exec (.markinact (pinOf port n c.succ)) s = .next t) :
    s.fault = none ∧ t = (s.markInactive port c).advance 1 := by
  have hf := (exec_next h).1
  cases (exec_markinact_succ hf port n c).symm.trans h
  exact ⟨hf, rfl⟩

/-- R127: a mark on a channel whose enable bit is clear breaks INV1. -/
theorem not_enableTracksOwners_markActive (hena : s.ena[c] = false) :
    ¬ EnableTracksOwners ((s.markActive port c).advance 1) := fun hinv => by
  have howned : channelOwned (s.active ||| bit (bitIndex port c)) c = true := channelOwned_markActive_same _ _ _
  cases (hena.symm.trans (hinv c)).trans howned

/-- R128: the last mark taken from an enabled channel breaks INV1. -/
theorem not_enableTracksOwners_markInactive (hena : s.ena[c] = true)
    (hlast : ∀ p, p ≠ port → ownsChannel s.active p c = false) :
    ¬ EnableTracksOwners ((s.markInactive port c).advance 1) := fun hinv => by
  have hfree : channelOwned (s.active &&& ~~~ bit (bitIndex port c)) c = false := channelOwned_markInactive_last hlast
  cases (hena.symm.trans (hinv c)).trans hfree

/-! ## The hazards of direct registry use -/

/-- R145: an ATTACH that takes no fault on a channel with an owner leaves it owned, and its enable bit as it was. -/
theorem exec_attach_of_owned {v : Word} (howned : channelOwned s.active c = true)
    (h : exec (.attach (pinOf port n c.succ) v) s = .next u) (hu : u.fault = none) :
    channelOwned u.active c = true ∧ u.ena[c] = s.ena[c] := by
  obtain ⟨-, ⟨code, rfl⟩ | hdone⟩ := exec_next h
  · cases hu
  · cases hdone with
    | query hi => exact hi.elim
    | attach p m d hd hwrite =>
      have hdc : d = c := by
        rw [pinOf_chan_toNat, channelReg, Fin.val_succ, Fin.val_succ] at hd
        exact Fin.ext (by omega)
      subst hdc
      obtain ⟨mr, pr, rfl⟩ := busWrite_frame hwrite
      exact ⟨channelOwned_markActive_same _ _ _, by simp [attached, latched, howned]⟩

/-- R146: a DETACH that finds its channel without an owner clears the enable bit. -/
theorem detached_ena_of_free (hfree : channelOwned s.active c = false) (p : Fin 5) :
    (detached s p c).ena[c] = false := by
  have hafter : channelOwned (s.active &&& ~~~ bit (bitIndex p c)) c = false :=
    Bool.eq_false_iff.mpr fun h => Bool.eq_false_iff.mp hfree (channelOwned_of_markInactive h)
  simp [detached, hafter]

end

end

/-! ## The statements -/

/-- Settles O22: a channel with an owner has one in some port. -/
theorem chactReportsAnyOwner : Obligations.ChactReportsAnyOwner := by
  refine ⟨fun _ => rfl, fun s hf => ⟨fun port n c => ?_, fun port n => issuePin_zero hf port n _,
    fun _ hpin => issuePin_illegal hf hpin _⟩⟩
  rw [exec_chact_succ hf, boolWord_of_iff (channelOwned_iff s.active c)]
  rfl

/-- Settles O23: the marked channel is owned, and its enable bit is as before. -/
theorem markactSetsOneBit : Obligations.MarkactSetsOneBit := by
  refine ⟨fun _ => rfl, fun s hf => ⟨exec_markact_succ hf, fun port n => issuePin_requireChannel_zero hf port n _,
    fun _ hpin => issuePin_illegal hf hpin _, fun port n c t hena h => ?_⟩⟩
  obtain ⟨-, rfl⟩ := eq_of_exec_markact h
  exact not_enableTracksOwners_markActive hena

/-- Settles O24: without its last owner the channel has none, and its enable bit is as before. -/
theorem markinactClearsOneBit : Obligations.MarkinactClearsOneBit := by
  refine ⟨fun _ => rfl, fun s hf => ⟨exec_markinact_succ hf, fun port n => issuePin_requireChannel_zero hf port n _,
    fun _ hpin => issuePin_illegal hf hpin _, fun port n c t hena hlast h => ?_⟩⟩
  obtain ⟨-, rfl⟩ := eq_of_exec_markinact h
  exact not_enableTracksOwners_markInactive hena hlast

/-- Settles O27: the laws (a) to (f), (e) with the timer's turn leaving ACTIVE alone. -/
theorem registryLaws : Obligations.RegistryLaws := by
  refine ⟨fun p _ c _ => ⟨Nat.le_of_lt_succ (bitIndex_lt p c), bitIndex_injective⟩, channelActive_iff_pinActive,
    fun q => ⟨pinActive_empty q, channelActive_empty q⟩, fun active _ => channelActive_of_pinActive active, ?markUnmark,
    fun _ _ _ h _ => exec_active_above h⟩
  case markUnmark =>
    intro s t u port n c hclear hmark hunmark
    obtain ⟨-, rfl⟩ := eq_of_exec_markact hmark
    obtain ⟨-, rfl⟩ := eq_of_exec_markinact hunmark
    simpa using markInactive_markActive_of_clear hclear

/-- Settles O41: ATTACH enables only a channel it finds without an owner, and DETACH disables one it leaves without. -/
theorem directRegistryUseHazards : Obligations.DirectRegistryUseHazards := by
  constructor
  · intro s t u p q n m c v _ _ hena hmark hattach hu
    obtain ⟨-, rfl⟩ := eq_of_exec_markact hmark
    have howned : channelOwned (s.active ||| bit (bitIndex p c)) c = true := channelOwned_markActive_same _ _ _
    obtain ⟨hstill, hkept⟩ := exec_attach_of_owned (by simpa using howned) hattach hu
    exact ⟨howned, hena, hstill, hkept.trans (by simpa using hena)⟩
  · intro s t u p q n m c hena hlast hunmark hdetach
    obtain ⟨hf, rfl⟩ := eq_of_exec_markinact hunmark
    have hfree : channelOwned (s.active &&& ~~~ bit (bitIndex p c)) c = false := channelOwned_markInactive_last hlast
    cases (exec_detach_of_running (by simpa using hf) q m c).symm.trans hdetach
    exact ⟨hfree, hena, detached_ena_of_free (by simpa using hfree) q⟩

/-- Settles O20: `bitIndex` is the sum of R120. -/
theorem bitidxReportsTheBitIndex : Obligations.BitidxReportsTheBitIndex :=
  ⟨fun _ => rfl, fun port c => Nat.le_of_lt_succ (bitIndex_lt port c), fun _ hf => ⟨exec_bitidx_succ hf,
    fun port n => issuePin_requireChannel_zero hf port n _, fun _ hpin => issuePin_illegal hf hpin _,
    exec_bitidx_succ hf 1 21 2⟩⟩

/-- Settles O21: the bit that is read is this pin's own. -/
theorem pinactReportsThisPin : Obligations.PinactReportsThisPin :=
  ⟨fun _ => rfl, fun _ _ => BitVec.getLsbD_zero, fun _ hf => ⟨exec_pinact_succ hf,
    fun port n => issuePin_zero hf port n _, fun _ hpin => issuePin_illegal hf hpin _⟩⟩

/-- Settles O25: the index is below 30 and injective, and without a channel each of the five commands stops at its check. -/
theorem bitIndexOfPortAndChannel : Obligations.BitIndexOfPortAndChannel :=
  ⟨fun port c => ⟨rfl, Nat.le_of_lt_succ (bitIndex_lt port c)⟩, rfl, rfl, fun _ _ _ _ => bitIndex_injective,
    fun _ port n value hf => ⟨issuePin_requireChannel_zero hf port n _, issuePin_requireChannel_zero hf port n _,
      issuePin_requireChannel_zero hf port n _, issuePin_requireChannel_zero hf port n _,
      fun hi => exec_attach_zero hf hi port n value⟩⟩

/-- Settles O26: activity of a channel is read off its mask, which names one bit per port. -/
theorem activityOfPinAndChannel : Obligations.ActivityOfPinAndChannel := fun active _ _ =>
  ⟨fun c => ⟨Iff.rfl, channelOwned_iff_mask active c, channelOwned_iff active c⟩, rfl, rfl, fun _ _ _ => rfl⟩

/-- Settles O28: the six masks are computed. -/
theorem channelMaskTable : Obligations.ChannelMaskTable := ⟨by decide, by decide, by decide, by decide⟩

end Sys2Proof.Machine
end

section
/-!
PROOFS of 43_controller.md. A command that writes a match register starts with `staged`, the two access steps that stage a value
and request its latch; the timer's turns after them only adopt what is pending (`KeptOrAdopted`), and which do is read off the
points of `boundaryAt`. With the timer alone (R160, R161), a run is a chain of turns.
-/

namespace Sys2Proof.Machine

open Sys2Proof

section
variable {s t u : State} {j : Fin 7}

/-! ## R58, R160: a turn of the timer, register by register -/

@[simp] theorem State.turnUnless_resultReads (s : State) (skip : Bool) : (s.turnUnless skip).resultReads = s.resultReads := by
  rw [State.turnUnless_eq]

@[simp] theorem State.turnUnless_draws (s : State) (skip : Bool) : (s.turnUnless skip).draws = s.draws := by
  rw [State.turnUnless_eq]

@[simp] theorem boundaryAt_setMr (s : State) (r : Fin 7) (v : Word) : (s.setMr r v).boundaryAt = s.boundaryAt := rfl

@[simp] theorem boundaryAt_setPr (s : State) (v : Word) : (s.setPr v).boundaryAt = s.boundaryAt := rfl

@[simp] theorem boundaryAt_requestLatch (s : State) (r : Fin 7) : (s.requestLatch r).boundaryAt = s.boundaryAt := rfl

theorem timerTurn_ler_at (hf : s.fault = none) (j : Fin 7) : s.timerTurn.ler[j] = (!s.boundaryAt 0 && s.ler[j]) := by
  rw [timerTurn_ler_get, boundaryComes_eq s hf]

theorem timerTurn_applied_at (hf : s.fault = none) (j : Fin 7) :
    s.timerTurn.applied[j] = if s.boundaryAt 0 && s.ler[j] then s.mr[j] else s.applied[j] := by
  rw [timerTurn_applied_get, boundaryComes_eq s hf]

theorem turnUnless_ler_at (hf : s.fault = none) (skip : Bool) (j : Fin 7) :
    (s.turnUnless skip).ler[j] = (!(!skip && s.boundaryAt 0) && s.ler[j]) := by
  cases skip
  · exact timerTurn_ler_at hf j
  · rfl

theorem turnUnless_applied_at (hf : s.fault = none) (skip : Bool) (j : Fin 7) :
    (s.turnUnless skip).applied[j] = if !skip && s.boundaryAt 0 && s.ler[j] then s.mr[j] else s.applied[j] := by
  cases skip
  · exact timerTurn_applied_at hf j
  · rfl

/-- What a boundary gives is the same before and after a turn of the timer. -/
theorem boundary_applied_timerTurn (s : State) (j : Fin 7) :
    s.timerTurn.boundary.applied[j] = s.boundary.applied[j] := by
  rw [boundary_applied_get, boundary_applied_get, timerTurn_ler_get, timerTurn_applied_get, State.timerTurn_mr]
  cases s.boundaryComes <;> simp

theorem boundary_applied_turnUnless (s : State) (skip : Bool) (j : Fin 7) :
    (s.turnUnless skip).boundary.applied[j] = s.boundary.applied[j] := by
  cases skip
  · exact boundary_applied_timerTurn s j
  · rfl

/-- R160: a boundary that finds no request changes nothing. -/
theorem boundary_of_settled (h : Settled s) : s.boundary = s := by
  have happlied : s.boundary.applied = s.applied := Vector.ext fun j hj =>
    (boundary_applied_get s ⟨j, hj⟩).trans (if_neg (by rw [h]; exact Bool.false_ne_true))
  have hler : s.boundary.ler = s.ler := Vector.ext fun j hj => (boundary_ler_get s ⟨j, hj⟩).trans (h ⟨j, hj⟩).symm
  calc s.boundary = { s with applied := s.boundary.applied, ler := s.boundary.ler } := rfl
    _ = s := by rw [happlied, hler]

theorem keptOrAdopted_of_kept (hl : t.ler[j] = s.ler[j]) (ha : t.applied[j] = s.applied[j]) : KeptOrAdopted s t j :=
  .inl ⟨hl, ha⟩

theorem keptOrAdopted_timerTurn (s : State) (j : Fin 7) : KeptOrAdopted s s.timerTurn j := by
  unfold KeptOrAdopted
  rw [timerTurn_ler_get, timerTurn_applied_get]
  cases s.boundaryComes
  · exact .inl ⟨rfl, rfl⟩
  · exact .inr ⟨rfl, rfl⟩

theorem keptOrAdopted_turnUnless (s : State) (skip : Bool) (j : Fin 7) : KeptOrAdopted s (s.turnUnless skip) j := by
  cases skip
  · exact keptOrAdopted_timerTurn s j
  · exact keptOrAdopted_of_kept rfl rfl

/-- A second boundary finds no request that the first one has taken. -/
theorem KeptOrAdopted.trans (h : KeptOrAdopted s u j) (hm : u.mr[j] = s.mr[j]) (h' : KeptOrAdopted u t j) :
    KeptOrAdopted s t j := by
  obtain ⟨hl, ha⟩ | ⟨hl, ha⟩ := h
  · rwa [KeptOrAdopted, hl, ha, hm] at h'
  · rw [KeptOrAdopted, hl, ha] at h'
    exact .inr (by simpa using h')

/-- A turn at a point that the timer lets pass; the later points follow. -/
theorem timerTurn_of_quietFor {n : Nat} (hf : s.fault = none) (h : QuietFor (n + 1) s) :
    s.timerTurn.applied = s.applied ∧ s.timerTurn.ler = s.ler ∧ QuietFor n s.timerTurn := by
  have hturn := timerTurn_of_quiet s (boundaryComes_of_quiet s hf h)
  refine ⟨by rw [hturn], by rw [hturn], fun k hk => ?_⟩
  rw [boundaryAt_timerTurn]
  exact h (k + 1) (Nat.succ_lt_succ hk)

theorem turnUnless_of_quietFor (hf : s.fault = none) (skip : Bool) (h : QuietFor 1 s) :
    (s.turnUnless skip).applied = s.applied ∧ (s.turnUnless skip).ler = s.ler := by
  cases skip
  · obtain ⟨ha, hl, -⟩ := timerTurn_of_quietFor hf h
    exact ⟨ha, hl⟩
  · exact ⟨rfl, rfl⟩

end

/-! ## R141: the two access steps that stage a value and request its latch -/

/-- The state after them, with the timer's turn between. -/
def staged (s : State) (r : Fin 7) (v : Word) : State := (s.setMr r v).timerTurn.requestLatch r

section
variable {s : State} (r : Fin 7) (v : Word)

theorem staged_eq (s : State) : staged s r v = { s with
    mr := s.mr.set r (some v)
    applied := (staged s r v).applied, ler := (staged s r v).ler, timer := s.timer.tail } := by
  simp [staged, State.ext_iff]

@[simp] theorem staged_fault (s : State) : (staged s r v).fault = s.fault := by rw [staged_eq]
@[simp] theorem staged_mr (s : State) : (staged s r v).mr = s.mr.set r (some v) := by rw [staged_eq]
@[simp] theorem staged_active (s : State) : (staged s r v).active = s.active := by rw [staged_eq]

theorem staged_boundaryAt (k : Nat) : (staged s r v).boundaryAt k = s.boundaryAt (k + 1) := by
  rw [staged, boundaryAt_requestLatch, boundaryAt_timerTurn, boundaryAt_setMr]

theorem staged_mr_same : (staged s r v).mr[r] = some v := by simp

theorem setMr_mr_of_ne {j : Fin 7} (h : j ≠ r) : (s.setMr r v).mr[j] = s.mr[j] :=
  Vector.getElem_set_ne r.isLt _ fun e => h (Fin.ext e.symm)

theorem staged_mr_of_ne {j : Fin 7} (h : j ≠ r) : (staged s r v).mr[j] = s.mr[j] := by
  rw [staged_mr, ← State.setMr_mr, setMr_mr_of_ne r v h]

theorem staged_ler_same : (staged s r v).ler[r] = true := by simp [staged]

/-- R197: the turn between the two accesses adopts the new value exactly where a request was pending. -/
theorem staged_applied_same (hf : s.fault = none) :
    (staged s r v).applied[r] = if s.ler[r] && s.boundaryAt 0 then some v else s.applied[r] := by
  rw [staged, State.requestLatch_applied, timerTurn_applied_at (s := s.setMr r v) hf, Bool.and_comm]
  simp

theorem staged_keptOrAdopted {j : Fin 7} (h : j ≠ r) : KeptOrAdopted s (staged s r v) j := by
  have hwrite : KeptOrAdopted s (s.setMr r v) j := keptOrAdopted_of_kept rfl rfl
  have hturn := hwrite.trans (setMr_mr_of_ne r v h) (keptOrAdopted_timerTurn _ j)
  rwa [KeptOrAdopted, ← requestLatch_ler_of_ne h] at hturn

theorem staged_of_quietFor {n : Nat} (hf : s.fault = none) (h : QuietFor (n + 1) s) :
    (staged s r v).applied = s.applied ∧ (staged s r v).ler = s.ler.set r true ∧ QuietFor n (staged s r v) := by
  obtain ⟨ha, hl, hq⟩ := timerTurn_of_quietFor (s := s.setMr r v) hf h
  exact ⟨ha, congrArg (·.set r true) hl, hq⟩

/-- The value just staged and requested is what a boundary gives. -/
theorem staged_boundary_applied : (staged s r v).boundary.applied[r] = some v := by
  rw [boundary_applied_get, if_pos (staged_ler_same r v), staged_mr_same]

/-- R143, R144, R197: a command that consists of the two accesses, over every timing of the turn between them. -/
theorem staged_advance_spec (hf : s.fault = none) (len : Nat) :
    let t := (staged s r v).advance len
    t = { s with
        mr := s.mr.set r (some v)
        pc := s.pc + len
        applied := t.applied, ler := t.ler, timer := t.timer }
      ∧ t.ler[r] = true
      ∧ t.applied[r] = (if s.ler[r] && s.boundaryAt 0 then some v else s.applied[r])
      ∧ (∀ j : Fin 7, j ≠ r → KeptOrAdopted s t j)
      ∧ (QuietFor 1 s → t.applied = s.applied ∧ t.ler = s.ler.set r true) := by
  refine ⟨?_, staged_ler_same r v, staged_applied_same r v hf, fun j hj => staged_keptOrAdopted r v hj, fun hq => ?_⟩
  · simp [staged, State.ext_iff]
  · obtain ⟨ha, hl, -⟩ := staged_of_quietFor r v hf hq
    exact ⟨ha, hl⟩

end

/-! ## R142 to R146: the commands -/

section
variable {s t : State} {port : Fin 5} {n : Fin 32} {c : Channel} {v : Word}

theorem exec_init_of_running (hp : paramsAccepted s.cfg = true) (hf : s.fault = none) (prescale period : Word) :
    exec (.init prescale period) s
      = .next ((staged (s.setPr prescale).timerTurn periodReg (initPeriodValue s.cfg period)).setInited.advance 3) := by
  rw [exec, execInit, issue_of_running hf, busWrite_prAddr hp, andThen_next_eq, stageAndLatch_eq (by simpa using hp), staged]

theorem exec_setper_of_running (hp : paramsAccepted s.cfg = true) (hf : s.fault = none) (period : Word) :
    exec (.setper period) s = .next ((staged s periodReg (setperPeriodValue period)).advance 2) := by
  rw [exec, execSetper, issue_of_running hf, stageAndLatch_eq hp, staged]

theorem exec_setmatch_succ (hp : paramsAccepted s.cfg = true) (hf : s.fault = none) (hi : s.inited = true) (port : Fin 5)
    (n : Fin 32) (c : Channel) (v : Word) :
    exec (.setmatch (pinOf port n c.succ) v) s = .next ((staged s (channelReg c) v).advance 2) := by
  rw [exec, execSetmatch, issuePin_channel hf, State.requireInited, if_pos hi]
  exact stageAndLatch_eq hp (channelReg c) v fun u => .next (u.advance 2)

theorem exec_setmatch_zero (hf : s.fault = none) (hi : s.inited = true) (port : Fin 5) (n : Fin 32) (v : Word) :
    exec (.setmatch (pinOf port n 0) v) s = .next (s.raiseFault .channelZero) := by
  rw [exec, execSetmatch, issuePin_zero hf, State.requireInited, if_pos hi, State.requireChannel]

/-- R173: NOT_INITIALISED comes before every check that looks at the pin. -/
theorem issuePin_of_uninited (hf : s.fault = none) (hi : s.inited = false) (port : Fin 5) (n : Fin 32) (chan : Fin 7)
    (k : PhysPin → Result) :
    (s.issuePin (pinOf port n chan) fun q => s.requireInited (k q)) = .next (s.raiseFault .notInitialised) := by
  have hcheck (o : Result) : s.requireInited o = .next (s.raiseFault .notInitialised) := by simp [State.requireInited, hi]
  simp only [hcheck]
  exact issuePin_of_port_pinno hf port n chan fun _ _ => .next (s.raiseFault .notInitialised)

theorem exec_attach_of_lacksFeature (hf : s.fault = none) (hi : s.inited = true) (hl : lacksFeature s.cfg port = true)
    (n : Fin 32) (c : Channel) (v : Word) :
    exec (.attach (pinOf port n c.succ) v) s = .next (s.raiseFault .noPwmFeature) := by
  rw [exec, execAttach, issuePin_channel hf, State.requireInited, if_pos hi]
  exact if_pos hl

theorem eq_of_exec_setmatch (hp : paramsAccepted s.cfg = true)
    (h : exec (.setmatch (pinOf port n c.succ) v) s = .next t) (ht : t.fault = none) :
    t = (staged s (channelReg c) v).advance 2 := by
  obtain ⟨-, ⟨code, rfl⟩ | ⟨q, d, u, hq, hd, -, hu, rfl⟩⟩ := execSetmatch_next h
  · cases ht
  · cases (resolvePin_pinOf_succ port n c).symm.trans hq
    cases hd
    cases (busWrite_mrAddr hp _ _).symm.trans hu
    rfl

theorem eq_of_exec_attach (hp : paramsAccepted s.cfg = true)
    (h : exec (.attach (pinOf port n c.succ) v) s = .next t) (ht : t.fault = none) :
    t = attached (staged s (channelReg c) v).timerTurn port n c (featureCode s.cfg port) := by
  obtain ⟨-, ⟨code, rfl⟩ | ⟨q, d, u, w, hq, hd, -, -, hu, rfl, rfl⟩⟩ := execAttach_next h
  · cases ht
  · cases (resolvePin_pinOf_succ port n c).symm.trans hq
    cases hd
    cases (busWrite_mrAddr hp _ _).symm.trans hu
    exact attach_end_eq _ port n c _

end

section
variable {s t : State} {port : Fin 5} {n : Fin 32} {c : Channel} {v : Word}

/-! ## R145: ATTACH after its first two access steps -/

/-- The three points between s2 and the end of an ATTACH; the one before s4 is there only on an Idle channel. -/
def adoptsLater (s : State) (c : Channel) : Bool :=
  s.boundaryAt 0 || s.boundaryAt 1 || (!channelOwned s.active c && s.boundaryAt 2)

theorem attached_ler_at (hf : s.fault = none) {r : Fin 7} (hl : s.ler[r] = true) (code : FeatureCode) :
    (attached s.timerTurn port n c code).ler[r] = !adoptsLater s c := by
  rw [attached, turnUnless_ler_at (by simpa using hf), timerTurn_ler_at (by simpa using hf), timerTurn_ler_at hf, hl]
  simp only [boundaryAt_timerTurn, State.timerTurn_active, adoptsLater]
  cases s.boundaryAt 0 <;> cases s.boundaryAt 1 <;> simp

theorem attached_applied_at (hf : s.fault = none) {r : Fin 7} (hl : s.ler[r] = true) (code : FeatureCode) :
    (attached s.timerTurn port n c code).applied[r] = if adoptsLater s c then s.mr[r] else s.applied[r] := by
  rw [attached, turnUnless_applied_at (by simpa using hf), timerTurn_applied_at (by simpa using hf), timerTurn_applied_at hf,
    timerTurn_ler_at (by simpa using hf), timerTurn_ler_at hf, hl]
  simp only [boundaryAt_timerTurn, State.timerTurn_active, State.timerTurn_mr, adoptsLater]
  by_cases h0 : s.boundaryAt 0 = true <;> by_cases h1 : s.boundaryAt 1 = true <;> simp [h0, h1]

theorem attached_keptOrAdopted (j : Fin 7) (code : FeatureCode) :
    KeptOrAdopted s (attached s.timerTurn port n c code) j :=
  have hturns := (keptOrAdopted_timerTurn s j).trans (by simp) (keptOrAdopted_timerTurn s.timerTurn j)
  hturns.trans (by simp) (keptOrAdopted_turnUnless _ _ j)

theorem attached_of_quietFor (hf : s.fault = none) (h : QuietFor 3 s) (code : FeatureCode) :
    (attached s.timerTurn port n c code).applied = s.applied ∧ (attached s.timerTurn port n c code).ler = s.ler := by
  obtain ⟨ha1, hl1, hq1⟩ := timerTurn_of_quietFor hf h
  obtain ⟨ha2, hl2, hq2⟩ := timerTurn_of_quietFor (by simpa using hf) hq1
  obtain ⟨ha3, hl3⟩ := turnUnless_of_quietFor (by simpa using hf) (channelOwned s.timerTurn.active c) hq2
  exact ⟨ha3.trans (ha2.trans ha1), hl3.trans (hl2.trans hl1)⟩

/-- The later turns do not change what a boundary gives. -/
theorem attached_boundary_applied (s : State) (r : Fin 7) (code : FeatureCode) :
    (attached s.timerTurn port n c code).boundary.applied[r] = s.boundary.applied[r] := calc
  _ = s.timerTurn.timerTurn.boundary.applied[r] := boundary_applied_turnUnless _ (channelOwned s.timerTurn.active c) r
  _ = s.timerTurn.boundary.applied[r] := boundary_applied_timerTurn _ r
  _ = s.boundary.applied[r] := boundary_applied_timerTurn s r

/-- R147: SETMATCH and ATTACH leave their value staged, and a boundary gives it, whatever was there before. -/
theorem boundary_applied_of_write {i : Instr} (hp : paramsAccepted s.cfg = true)
    (hi : i = .setmatch (pinOf port n c.succ) v ∨ i = .attach (pinOf port n c.succ) v)
    (h : exec i s = .next t) (ht : t.fault = none) :
    t.mr[channelReg c] = some v ∧ t.boundary.applied[channelReg c] = some v := by
  have hboundary := staged_boundary_applied (s := s) (channelReg c) v
  obtain rfl | rfl := hi
  · obtain rfl := eq_of_exec_setmatch hp h ht
    exact ⟨staged_mr_same _ v, hboundary⟩
  · obtain rfl := eq_of_exec_attach hp h ht
    exact ⟨by simp [attached], (attached_boundary_applied _ _ _).trans hboundary⟩

end

/-! ## R161: runs of the timer alone -/

/-- A completed run in which the caller does nothing more and the timer runs. -/
structure Idles (s : State) : Prop where
  admitted : s.refusal? = none
  completed : Completed s
  noRead : s.resultReads.head? ≠ some s.pc
  running : s.cfg.timerRunning = true

section
variable {s : State}

theorem Idles.timerTurn (h : Idles s) : Idles s.timerTurn where
  admitted := by simpa [State.refusal?, State.hasUnserialised] using h.admitted
  completed := by simpa [Completed] using h.completed
  noRead := by simpa using h.noRead
  running := by simpa using h.running

theorem Idles.step_eq (h : Idles s) : step s = .next s.timerTurn := by
  obtain ⟨hpc, hf⟩ := h.completed
  have hact : s.callerAction = .finished := by rw [State.callerAction, if_neg h.noRead, if_pos hpc.ge]
  rw [step_of_running h.admitted hf, callerTurn, callerAction_timerTurn, hact]

theorem Idles.run_succ (h : Idles s) (k : Nat) :
    Host.Core.run Sys2Proof.core (k + 1) s = Host.Core.run Sys2Proof.core k s.timerTurn := by
  have hstep : Sys2Proof.core.step s = .next s.timerTurn := h.step_eq
  simp only [Host.Core.run, hstep]

/-- Past the end of the timer's choices the next turn takes every request. -/
theorem Idles.timerTurn_settled (h : Idles s) (htimer : s.timer = []) : Settled s.timerTurn := by
  obtain ⟨-, hf⟩ := h.completed
  intro j
  rw [timerTurn_ler_get]
  simp [State.boundaryComes, State.boundaryEnabled, h.running, hf, htimer]

/-- By induction on the timer's choices, one of which each step uses up. -/
theorem Idles.run_settles {choices : List Bool} (h : Idles s) (htimer : s.timer = choices) :
    ∃ t, Host.Core.run Sys2Proof.core (choices.length + 1) s = .next t ∧ Settled t ∧ Completed t ∧ t.mr = s.mr := by
  induction choices generalizing s with
  | nil => exact ⟨s.timerTurn, h.run_succ 0, h.timerTurn_settled htimer, h.timerTurn.completed, State.timerTurn_mr s⟩
  | cons b choices ih =>
    obtain ⟨t, hrun, hsettled, hdone, hmr⟩ := ih h.timerTurn (by simp [htimer])
    exact ⟨t, (h.run_succ _).trans hrun, hsettled, hdone, hmr.trans (State.timerTurn_mr s)⟩

end

/-! ## R161: the stopped timer -/

section
variable {s t : State} {i : Instr} {j : Fin 7}

theorem timerTurn_keeps_pending (hstop : s.cfg.timerRunning = false) (h : s.ler[j] = true) : s.timerTurn.ler[j] = true := by
  rw [timerTurn_ler_get, h]
  simp [State.boundaryComes, State.boundaryEnabled, hstop]

theorem turnUnless_keeps_pending (hstop : s.cfg.timerRunning = false) (skip : Bool) (h : s.ler[j] = true) :
    (s.turnUnless skip).ler[j] = true := by
  cases skip
  · exact timerTurn_keeps_pending hstop h
  · exact h

theorem requestLatch_keeps_pending (r : Fin 7) (h : s.ler[j] = true) : (s.requestLatch r).ler[j] = true := by
  by_cases hjr : j = r
  · simp [hjr]
  · rw [requestLatch_ler_of_ne hjr, h]

/-- R161: without boundaries a command only adds requests. -/
theorem Completes.keeps_pending (h : Completes i s t) (hstop : s.cfg.timerRunning = false) (hj : s.ler[j] = true) :
    t.ler[j] = true := by
  cases h with
  | query | markact | markinact => exact hj
  | mrwr c hu =>
    obtain ⟨mr, pr, rfl⟩ := busWrite_frame hu
    exact hj
  | setper hu | setmatch c hu =>
    obtain ⟨mr, pr, rfl⟩ := busWrite_frame hu
    exact requestLatch_keeps_pending _ (timerTurn_keeps_pending hstop hj)
  | init hu hw =>
    obtain ⟨mr, pr, rfl⟩ := busWrite_frame hu
    obtain ⟨mr', pr', rfl⟩ := busWrite_frame hw
    have hturn := timerTurn_keeps_pending (s := { s with mr := mr, pr := pr }) hstop hj
    exact requestLatch_keeps_pending _ (timerTurn_keeps_pending (by simpa using hstop) hturn)
  | attach port n c hc hu =>
    obtain ⟨mr, pr, rfl⟩ := busWrite_frame hu
    have hturn := timerTurn_keeps_pending (s := { s with mr := mr, pr := pr }) hstop hj
    have hlatched := timerTurn_keeps_pending (by simpa using hstop) (requestLatch_keeps_pending (channelReg c) hturn)
    have hmarked := timerTurn_keeps_pending (by simpa [latched] using hstop) hlatched
    exact turnUnless_keeps_pending (by simpa [latched] using hstop) _ hmarked
  | detach port c => exact turnUnless_keeps_pending hstop _ hj

end

/-! ## The statements -/

/-- Settles O34: the two accesses of `staged`, then `attached`, whose turns take the request or leave it. -/
theorem attachTakesOwnershipAndSelectsThePin : Obligations.AttachTakesOwnershipAndSelectsThePin := by
  refine ⟨fun _ _ => rfl, fun s port n value hp hf => ⟨fun c hi hfeature => ?completes,
    fun chan hi => issuePin_of_uninited hf hi port n chan _, fun hi => exec_attach_zero hf hi port n value,
    fun c hi hl => exec_attach_of_lacksFeature hf hi hl n c value, fun _ hpin => issuePin_illegal hf hpin _⟩⟩
  case completes =>
    have hf' : (staged s (channelReg c) value).fault = none := by simpa using hf
    have hler := staged_ler_same (s := s) (channelReg c) value
    have hlater : adoptsLater (staged s (channelReg c) value) c
        = (s.boundaryAt 1 || s.boundaryAt 2 || (s.active &&& chmask c == 0 && s.boundaryAt 3)) := by
      simp [adoptsLater, staged_boundaryAt, channelOwned, bne]
    refine ⟨_, exec_attach_of_ready ⟨rfl, hf, hi⟩ hp hfeature n c value, ?frame, ⟨?ler, ?applied⟩, fun j hj => ?other,
      fun hq => ?quiet⟩
    case frame => simp [attached, latched, channelOwned, bit, bitIndex, featureCode, channelReg]
    case ler => exact hlater ▸ attached_ler_at hf' hler _
    case applied =>
      refine (attached_applied_at hf' hler _).trans ?_
      rw [hlater, staged_mr_same, staged_applied_same _ _ hf, ← ite_or]
      exact if_congr (or_comm.trans Bool.or_eq_true_iff.symm) rfl rfl
    case other =>
      exact (staged_keptOrAdopted (channelReg c) value hj).trans (staged_mr_of_ne _ _ hj) (attached_keptOrAdopted j _)
    case quiet =>
      obtain ⟨ha, hl, hq'⟩ := staged_of_quietFor (channelReg c) value hf hq
      obtain ⟨ha', hl'⟩ := attached_of_quietFor hf' hq' (featureCode s.cfg port)
      exact ⟨ha'.trans ha, hl'.trans hl⟩

/-- Settles O29: Active is owned, and INV1 ties the owners to the enable bit. -/
theorem channelStateIsDerived : Obligations.ChannelStateIsDerived := by
  intro s c
  have hstate : channelState s c = .active ↔ channelOwned s.active c = true := by simp [channelState]
  refine ⟨hstate.trans (channelOwned_iff_mask _ c), hstate.trans (channelOwned_iff _ c), fun hn => ?_,
    fun hinv => hstate.trans (by rw [hinv c])⟩
  cases h : channelState s c with
  | idle => rfl
  | active => exact absurd h hn

/-- Settles O31: INIT is SETPER's two accesses after the write of PR and a turn of the timer. -/
theorem initProgramsPrescaleAndPeriod : Obligations.InitProgramsPrescaleAndPeriod := by
  refine ⟨fun _ _ => rfl, fun s prescale period hp hf => ?_⟩
  have hf' : (s.setPr prescale).timerTurn.fault = none := by simpa using hf
  refine ⟨_, exec_init_of_running hp hf prescale period, ?frame, staged_ler_same periodReg _, ?applied, fun j hj => ?other,
    fun hq => ?quiet⟩
  case frame => simp [staged, State.ext_iff, periodReg, initPeriodValue]
  case applied =>
    refine (staged_applied_same periodReg _ hf').trans ?_
    rw [timerTurn_ler_at (s := s.setPr prescale) hf, timerTurn_applied_at (s := s.setPr prescale) hf, boundaryAt_timerTurn]
    simp only [boundaryAt_setPr, State.setPr_ler, State.setPr_mr, State.setPr_applied]
    by_cases hfirst : s.boundaryAt 0 = true <;> by_cases hpending : s.ler[(0 : Fin 7)] = true <;>
      simp [hfirst, hpending, periodReg, initPeriodValue]
  case other =>
    exact (keptOrAdopted_timerTurn (s.setPr prescale) j).trans (by simp) (staged_keptOrAdopted periodReg _ hj)
  case quiet =>
    obtain ⟨ha, hl, hq⟩ := timerTurn_of_quietFor (s := s.setPr prescale) hf hq
    obtain ⟨ha', hl', -⟩ := staged_of_quietFor periodReg (initPeriodValue s.cfg period) hf' hq
    exact ⟨ha'.trans ha, hl'.trans (congrArg (·.set 0 true) hl)⟩

/-- Settles O32: the two accesses of `staged`, on the period register. -/
theorem setperWritesPeriodLessOne : Obligations.SetperWritesPeriodLessOne :=
  ⟨fun _ => rfl, fun _ period hp hf => ⟨_, exec_setper_of_running hp hf period, staged_advance_spec periodReg _ hf 2⟩⟩

/-- Settles O33: the two accesses of `staged`, on the channel's register, after the checks of R173. -/
theorem setmatchStagesAndRequestsLatch : Obligations.SetmatchStagesAndRequestsLatch :=
  ⟨fun _ _ => rfl, fun _ port n value hp hf =>
    ⟨fun c hi => ⟨_, exec_setmatch_succ hp hf hi port n c value, staged_advance_spec (channelReg c) value hf 2⟩,
      fun chan hi => issuePin_of_uninited hf hi port n chan _, fun hi => exec_setmatch_zero hf hi port n value,
      fun _ hpin => issuePin_illegal hf hpin _⟩⟩

/-- Settles O35: the turn before s2 is the only one, and is there only where s2 is performed. -/
theorem detachReleasesOwnership : Obligations.DetachReleasesOwnership := by
  refine ⟨fun _ => rfl, fun s port n hf => ⟨fun c => ?_, issuePin_requireChannel_zero hf port n _,
    fun _ hpin => issuePin_illegal hf hpin _⟩⟩
  refine ⟨_, exec_detach_of_running hf port n c, ?frame, keptOrAdopted_turnUnless s _, ?quiet⟩
  case frame => simp [detached, channelOwned, bit, bitIndex]
  case quiet =>
    rintro (hq | howned)
    · exact turnUnless_of_quietFor hf _ hq
    · have hskip : channelOwned (s.active &&& ~~~ bit (bitIndex port c)) c = true := (channelOwned_iff_mask _ c).mpr howned
      simp [detached, State.turnUnless, hskip]

/-- Settles O36: INV1 is kept, so that the pin's mark shows in the enable bit. -/
theorem attachedPinIsDriving : Obligations.AttachedPinIsDriving := by
  intro s port n c value hp hf hi hfeature hinv
  have hexec := exec_attach_of_ready ⟨rfl, hf, hi⟩ hp hfeature n c value
  have hlacks : lacksFeature s.cfg port = false := hfeature
  have hinv' := exec_enableTracksOwners (neverMarks_attach _ _) hinv hexec
  refine ⟨_, hexec, ?driving, ?active⟩
  case active => simp [attached, ownsChannel_markActive]
  case driving =>
    have hena := (ena_iff_owner hinv' c).mpr ⟨port, by simp [attached, ownsChannel_markActive]⟩
    simp only [driving, hena]
    simp [attached, latched, hlacks]

/-- Settles O39: the second command writes and requests on its own, and the first has only kept the parameters. -/
theorem lastWriteWins : Obligations.LastWriteWins := by
  intro s t u p q n m c v w i j hp _ hj hfirst hft hsecond hfu
  have hcfg : t.cfg = s.cfg := by
    obtain ⟨-, ⟨code, rfl⟩ | hdone⟩ := exec_next hfirst
    · cases hft
    · exact hdone.keeps.1
  exact boundary_applied_of_write (by simpa [hcfg] using hp) hj hsecond hfu

/-- Settles O43: the boundary, register by register. -/
theorem boundaryAdoptsPendingValues : Obligations.BoundaryAdoptsPendingValues := by
  intro s
  refine ⟨by simp [State.boundaryEnabled], boundary_applied_get s, boundary_ler_get s, rfl, boundary_of_settled, ?turn⟩
  case turn =>
    unfold State.timerTurn State.boundaryComes
    split <;> rfl

/-- Settles O46: each step is a turn of the timer, and the last one comes after its choices are used up. -/
theorem pendingLatchesAreConsumed : Obligations.PendingLatchesAreConsumed := by
  intro s hr hdone hread hrunning
  obtain ⟨t, hrun, hsettled, hdone', hmr⟩ := Idles.run_settles ⟨hr, hdone, hread, hrunning⟩ rfl
  exact ⟨t, hrun, hsettled, hdone', fun j => by rw [hmr]⟩

/-- Settles O47: an applied value changes only where the timer runs, and no turn takes a request. -/
theorem stoppedTimerAppliesNothing : Obligations.StoppedTimerAppliesNothing := by
  intro s t hstop h
  refine ⟨Vector.ext fun j hj => ?applied, fun j hj => ?pending⟩
  case applied =>
    by_contra hne
    obtain ⟨hrunning, -, -⟩ := appliedChangesOnlyByRequest s t ⟨j, hj⟩ h hne
    cases hrunning.symm.trans hstop
  case pending =>
    have hturn := timerTurn_keeps_pending hstop hj
    cases step_does h with
    | idle | read | fault => exact hturn
    | command hi hdone => exact hdone.keeps_pending (by simpa using hstop) hturn

end Sys2Proof.Machine
end

section
/-!
PROOFS of 60_exceptions.md. A fault is taken in one way only (`TookFault`), and a command that completes takes none. The checks
of R172 stand before a command's first access step, so that the FAULT it ends with is read off them in their order: a lemma per
check adds it in front of those that follow.
-/

namespace Sys2Proof.Machine

open Sys2Proof

/-- The outcome is a next state with this FAULT. -/
def ReportsFault (o : Result) (fault : Option FaultCode) : Prop := ∃ t, o = .next t ∧ t.fault = fault

section
variable {s u : State} {p : Pin} {q : PhysPin} {c : Channel} {o : Result} {later : Option FaultCode}

/-! ## What the checks look at -/

theorem resolvePin_port (hq : resolvePin p = some q) : p.port.toNat = q.port.val := by
  unfold resolvePin at hq
  split at hq
  · cases hq
    rfl
  · cases hq

/-- R72: a legal pin is without a channel exactly on channel 0. -/
theorem resolvePin_channel_eq_none_iff (hq : resolvePin p = some q) : q.channel = none ↔ p.chan = 0 := by
  unfold resolvePin at hq
  split at hq
  · cases hq
    have hzero : p.chan = 0 ↔ p.chan.toNat = 0 := BitVec.toNat_inj.symm
    simp only [channelOf, dite_eq_right_iff, reduceCtorEq, imp_false, hzero]
    omega
  · cases hq

/-- R145: the port's feature code is negative where the pin's field names the port. -/
theorem lacksFeature_iff (hq : resolvePin p = some q) (params : Params) :
    lacksFeature params q.port = true ↔ (params.featureTable.toList.getD p.port.toNat 0).slt 0 = true := by
  simp [resolvePin_port hq, lacksFeature, featureCode, BitVec.slt_zero_eq_msb]

/-- R112: the register MRRD reads, where the pin's field names the channel. -/
theorem mr_getD_chan (hq : resolvePin p = some q) (hc : q.channel = some c) :
    s.mr.toList.getD p.chan.toNat none = s.mr[channelReg c] := by
  simp [resolvePin_chan hq hc]

/-! ## R172: one check in front of the others -/

theorem reportsFault_next {fault : Option FaultCode} (h : u.fault = fault) : ReportsFault (.next u) fault := ⟨u, rfl, h⟩

theorem reportsFault_check {check : Prop} [Decidable check] {code : FaultCode}
    (hfails : check → o = .next (s.raiseFault code)) (hpasses : ¬ check → ReportsFault o later) :
    ReportsFault o (if check then some code else later) := by
  split
  · exact ⟨_, hfails ‹_›, rfl⟩
  · exact hpasses ‹_›

theorem issuePin_reportsFault (hf : s.fault = none) {k : PhysPin → Result}
    (hk : ∀ q, resolvePin p = some q → ReportsFault (k q) later) :
    ReportsFault (s.issuePin p k) (if p.wellFormed = false then some .illegalEncoding else later) := by
  refine reportsFault_check (fun hillegal => issuePin_illegal hf hillegal k) fun hlegal => ?_
  obtain ⟨q, hq⟩ := Option.ne_none_iff_exists'.mp (mt (resolvePin_eq_none p).mp hlegal)
  rw [State.issuePin, issue_of_running hf, hq]
  exact hk q hq

theorem requireInited_reportsFault (ho : ReportsFault o later) :
    ReportsFault (s.requireInited o) (if s.inited = false then some .notInitialised else later) :=
  reportsFault_check (s := s) (fun hi => by simp [State.requireInited, hi]) fun hi => by simpa [State.requireInited, hi] using ho

theorem requireChannel_reportsFault (hq : resolvePin p = some q) {k : Channel → Result}
    (hk : ∀ c, q.channel = some c → ReportsFault (k c) later) :
    ReportsFault (s.requireChannel q k) (if p.chan = 0 then some .channelZero else later) := by
  have hzero := resolvePin_channel_eq_none_iff hq
  cases hc : q.channel with
  | none => exact reportsFault_check (fun _ => by rw [State.requireChannel, hc]) fun hn => absurd (hzero.mp hc) hn
  | some c =>
    refine reportsFault_check (s := s) (fun h0 => ?_) fun _ => ?_
    · cases (hzero.mpr h0).symm.trans hc
    · rw [State.requireChannel, hc]
      exact hk c hc

theorem requireFeature_reportsFault (hq : resolvePin p = some q) (ho : ReportsFault o later) :
    ReportsFault (s.requireFeature q o)
      (if (s.cfg.featureTable.toList.getD p.port.toNat 0).slt 0 then some .noPwmFeature else later) := by
  have hlacks := lacksFeature_iff hq s.cfg
  refine reportsFault_check (fun h => if_pos (hlacks.mpr h)) fun h => ?_
  rwa [State.requireFeature, if_neg (mt hlacks.mp h)]

/-- A pin command whose checks are those of the pin and of the channel. -/
theorem issuePin_requireChannel_reportsFault (hf : s.fault = none) {k : PhysPin → Channel → Result}
    (hk : ∀ q c, resolvePin p = some q → q.channel = some c → ReportsFault (k q c) later) :
    ReportsFault (s.issuePin p fun q => s.requireChannel q (k q))
      (if p.wellFormed = false then some .illegalEncoding else if p.chan = 0 then some .channelZero else later) :=
  issuePin_reportsFault hf fun q hq => requireChannel_reportsFault hq fun c => hk q c hq

/-! ## R173: the access steps after the checks -/

theorem answer_reportsFault (hf : s.fault = none) (v : Word) : ReportsFault (s.answer v) none :=
  reportsFault_next hf

theorem stageAndLatch_reportsFault (hp : paramsAccepted s.cfg = true) (hf : s.fault = none) (r : Fin 7) (v : Word)
    {k : State → Result} (hk : ∀ u, u.fault = none → ReportsFault (k u) none) : ReportsFault (s.stageAndLatch r v k) none := by
  rw [stageAndLatch_eq hp]
  exact hk _ ((staged_fault r v s).trans hf)

/-- MRRD's last check and its read: the check leaves the read a value. -/
theorem requireStaged_busRead_reportsFault (hp : paramsAccepted s.cfg = true) (hf : s.fault = none)
    (hq : resolvePin p = some q) (hc : q.channel = some c) :
    ReportsFault (s.requireStaged (channelReg c) <| s.busRead (mrAddr s.cfg (channelReg c)) fun v t => t.answer v)
      (if s.mr.toList.getD p.chan.toNat none = none then some .readUnwritten else none) := by
  rw [mr_getD_chan hq hc]
  refine reportsFault_check (fun hm => requireStaged_of_none hm _) fun hm => ?_
  obtain ⟨m, hm⟩ := Option.ne_none_iff_exists'.mp hm
  obtain ⟨v, -, hread⟩ := busRead_mrAddr hp (Option.isSome_of_eq_some hm) fun v t => t.answer v
  rw [requireStaged_of_some hm, hread]
  exact reportsFault_next hf

theorem attach_end_fault (port : Fin 5) (n : Fin 32) (c : Channel) (code : FeatureCode) :
    (((enableIfIdle (s.markActive port c) c (channelOwned s.active c)).timerTurn.setPinmux port n code).advance 2).fault
      = s.fault := by
  rw [attach_end_eq]
  simp [attached]

theorem detach_end_fault (port : Fin 5) (c : Channel) :
    ((disableIfUnowned (s.markInactive port c) c (channelOwned (s.markInactive port c).active c)).advance 1).fault
      = s.fault := by
  rw [detach_end_eq]
  simp [detached]

end

/-! ## The statements -/

/-- Settles O15: a command that completes takes no fault, and a state whose FAULT is set gives no agent a turn. -/
theorem takingAFaultKeepsEverythingElse : Obligations.TakingAFaultKeepsEverythingElse := by
  intro i s t code h hcode
  obtain ⟨-, hstep, hboundary, -⟩ := faultedStateHasNoStep t code hcode
  refine ⟨?_, hstep, hboundary⟩
  obtain ⟨hrun, ⟨code', rfl⟩ | hdone⟩ := exec_next h
  · cases hcode
    rfl
  · obtain ⟨-, -, -, -, hkept⟩ := hdone.keeps
    cases (hkept.symm.trans hcode).symm.trans hrun

/-- Settles O16: each command's checks, in the order its meaning makes them, and then access steps that take no fault. -/
theorem firstFailingCheckIsReported : Obligations.FirstFailingCheckIsReported := by
  intro i s hp hf
  cases i with
  | init prescale period => exact ⟨_, exec_init_of_running hp hf prescale period, by simpa [Instr.wellFormed] using hf⟩
  | setper period => exact ⟨_, exec_setper_of_running hp hf period, by simpa [Instr.wellFormed] using hf⟩
  | setmatch p v =>
    exact issuePin_reportsFault hf fun _ hq => requireInited_reportsFault <| requireChannel_reportsFault hq fun c _ =>
      stageAndLatch_reportsFault hp hf (channelReg c) v fun _ hu => reportsFault_next hu
  | attach p v =>
    exact issuePin_reportsFault hf fun q hq => requireInited_reportsFault <| requireChannel_reportsFault hq fun c _ =>
      requireFeature_reportsFault hq <| stageAndLatch_reportsFault hp hf (channelReg c) v fun u hu =>
        reportsFault_next <| (attach_end_fault q.port q.pinno c _).trans ((State.timerTurn_fault u).trans hu)
  | detach p =>
    exact issuePin_requireChannel_reportsFault hf fun q c _ _ =>
      reportsFault_next <| (detach_end_fault q.port c).trans hf
  | mrrd p =>
    exact issuePin_requireChannel_reportsFault hf fun _ _ hq hc => requireStaged_busRead_reportsFault hp hf hq hc
  | mrwr p v =>
    refine issuePin_requireChannel_reportsFault hf fun q c _ _ => ?_
    rw [busWrite_mrAddr hp]
    exact reportsFault_next hf
  | pinact p | chact p | feat p => exact issuePin_reportsFault hf fun _ _ => answer_reportsFault hf _
  | mraddr p | bitidx p => exact issuePin_requireChannel_reportsFault hf fun _ _ _ _ => answer_reportsFault hf _
  | markact p | markinact p =>
    exact issuePin_requireChannel_reportsFault hf fun _ _ _ _ => reportsFault_next hf

end Sys2Proof.Machine
end

section
/-!
PROOFS of 70_reset_and_hazards.md, with 43_controller.md R160 for the ends of a run. The timer's list is followed through the
end states of `exec_next`: how many of its entries a command uses is how many turns it gives (R204). A command that names a
channel and completes names a legal triple (`pinOf_of_completed`), so the rules about `pinOf` speak of it.
-/

namespace Sys2Proof.Machine

open Sys2Proof

/-! ## R202: the pins a program names -/

section
variable {i : Instr}

theorem encode_ne_nil (i : Instr) : encode i ≠ [] := by
  cases i with
  | init | setper | attach | setmatch | detach | pinact | chact | feat | mraddr | bitidx | markact | markinact | mrrd | mrwr =>
    exact List.cons_ne_nil _ _

theorem pinsWithin_nil (fuel : Nat) : pinsWithin fuel [] = [] := by
  cases fuel with
  | zero => rfl
  | succ fuel => rfl

theorem pinsWithin_encode_append (h : i.wellFormed = true) (fuel : Nat) (rest : List Word) :
    pinsWithin (fuel + 1) (encode i ++ rest) = i.pin?.toList ++ pinsWithin fuel rest := by
  rw [pinsWithin, decode_encode_append h]

/-- R73: each command has a word at least, so that as much fuel as words reaches every command. -/
theorem pinsWithin_flatMap_encode {cmds : List Instr} (h : ∀ i ∈ cmds, i.wellFormed = true) {fuel : Nat}
    (hfuel : (cmds.flatMap encode).length ≤ fuel) :
    pinsWithin fuel (cmds.flatMap encode) = cmds.flatMap fun i => i.pin?.toList := by
  induction cmds generalizing fuel with
  | nil => exact pinsWithin_nil fuel
  | cons i cmds ih =>
    obtain ⟨hi, hcmds⟩ := List.forall_mem_cons.mp h
    have hpos := List.length_pos_of_ne_nil (encode_ne_nil i)
    rw [List.flatMap_cons, List.length_append] at hfuel
    obtain ⟨fuel, rfl⟩ : ∃ k, fuel = k + 1 := Nat.exists_eq_succ_of_ne_zero (by omega)
    rw [List.flatMap_cons, List.flatMap_cons, pinsWithin_encode_append hi, ih hcmds (by omega)]

end

section
variable {s t : State} {i : Instr} {p : Pin} {c : Channel}

/-! ## R204: the turns of the timer inside a command -/

/-- A pin command that names a channel and takes no fault names a legal triple. -/
theorem pinOf_of_completed {k : PhysPin → Result} (h : s.issuePin p k = .next t) (ht : t.fault = none)
    (hc : p.chan.toNat = c.val + 1) : ∃ port n, p = pinOf port n c.succ := by
  obtain ⟨-, rfl | ⟨q, hq, -⟩⟩ := issuePin_next h
  · cases ht
  · have hport := resolvePin_port hq
    refine ⟨q.port, p.pinno.toFin, (pinOf_of_wellFormed (by omega) (by omega)).trans ?_⟩
    congr 1
    · exact Fin.ext hport
    · exact Fin.ext hc

theorem Completes.fault_eq_none (hdone : Completes i s t) (h : s.fault = none) : t.fault = none := by
  obtain ⟨-, -, -, -, hkept⟩ := hdone.keeps
  exact hkept.trans h

@[simp] theorem State.turnUnless_timer (s : State) (skip : Bool) :
    (s.turnUnless skip).timer = s.timer.drop (if skip then 0 else 1) := by
  cases skip
  · rw [State.turnUnless, if_neg Bool.false_ne_true, State.timerTurn_timer]
    exact List.drop_one.symm
  · rfl

theorem busWrite_timer {a v : Word} (h : s.busWrite a v = .next t) : t.timer = s.timer := by
  obtain ⟨mr, pr, rfl⟩ := busWrite_frame h
  rfl

theorem busWrite_active {a v : Word} (h : s.busWrite a v = .next t) : t.active = s.active := by
  obtain ⟨mr, pr, rfl⟩ := busWrite_frame h
  rfl

/-- R145: s3 and s5 are performed, s4 on a channel without an owner. -/
theorem attached_timer (s : State) (port : Fin 5) (n : Fin 32) (c : Channel) (code : FeatureCode) :
    (attached s port n c code).timer = s.timer.drop (if channelOwned s.active c then 1 else 2) := by
  simp only [attached, State.turnUnless_timer, State.timerTurn_timer]
  cases channelOwned s.active c <;> simp

/-- R146: s2 is performed where no owner remains. -/
theorem detached_timer (s : State) (port : Fin 5) (c : Channel) :
    (detached s port c).timer = s.timer.drop (if channelOwned (detached s port c).active c then 0 else 1) :=
  State.turnUnless_timer s _

/-- R146: with an owner left, DETACH is its first access alone. -/
theorem detached_of_owned {port : Fin 5} (h : channelOwned (s.active &&& ~~~ bit (bitIndex port c)) c = true) :
    detached s port c = (s.markInactive port c).advance 1 := by
  simp [detached, h, State.turnUnless, State.markInactive, State.advance]

/-! ## R191: the ends of a run -/

theorem afterBoundaries_of_fixed (h : (if s.boundaryEnabled then s.boundary else s) = s) (n : Nat) :
    afterBoundaries n s = s := by
  induction n with
  | zero => rfl
  | succ n ih => rw [afterBoundaries, h, ih]

/-- R160: the first boundary leaves no request, so that further ones change nothing. -/
theorem afterBoundaries_succ (n : Nat) (s : State) :
    afterBoundaries (n + 1) s = if s.boundaryEnabled then s.boundary else s := by
  rw [afterBoundaries]
  apply afterBoundaries_of_fixed
  cases h : s.boundaryEnabled
  · simp [h]
  · simp [boundary_of_settled (boundary_ler_get s)]

theorem boundaryEnabled_of_completed (h : Completed s) : s.boundaryEnabled = s.cfg.timerRunning := by
  simp [State.boundaryEnabled, h.2]

theorem runStatus_of_completed (hr : s.refusal? = none) (h : Completed s) : runStatus s = .completed := by
  obtain ⟨hpc, hf⟩ := h
  simp [runStatus, hr, hf, hpc]

/-- R191: with the command list exhausted, a step is the timer's turn. -/
theorem step_of_completed (hr : s.refusal? = none) (h : Completed s) (hread : s.resultReads.head? ≠ some s.pc) :
    step s = .next s.timerTurn := by
  obtain ⟨hpc, hf⟩ := h
  have hact : s.callerAction = .finished := by rw [State.callerAction, if_neg hread, if_pos hpc.ge]
  rw [step_of_running hr hf, callerTurn, callerAction_timerTurn, hact]

end

/-! ## The statements -/

/-- Settles O6: by induction on the commands, each of which the decoder gives back with the words after it. -/
theorem programPinsAreThoseOfItsCommands : Obligations.ProgramPinsAreThoseOfItsCommands := fun cmds h => calc
  programPins (cmds.flatMap encode) = cmds.flatMap fun i => i.pin?.toList := pinsWithin_flatMap_encode h le_rfl
  _ = cmds.filterMap Instr.pin? := (List.filterMap_eq_flatMap_toList _ _).symm

/-- Settles O37: the timer's turns of each command's end state are counted on the timer's list. -/
theorem accessStepCounts : Obligations.AccessStepCounts := by
  refine ⟨fun i s t h ht => ?faults, fun i s t h ht => ?completes⟩
  case faults =>
    obtain ⟨hrun, ⟨code, rfl⟩ | hdone⟩ := exec_next h
    · rfl
    · exact absurd (hdone.fault_eq_none hrun) ht
  case completes =>
    obtain ⟨hrun, ⟨code, rfl⟩ | hdone⟩ := exec_next h
    · cases ht
    · cases hdone with
      | query hi =>
        cases i with
        | bitidx | pinact | chact | feat | mraddr | mrrd => rfl
        | init | setper | attach | setmatch | detach | markact | markinact | mrwr => exact hi.elim
      | markact | markinact => rfl
      | mrwr c hu | setper hu | setmatch c hu => simp [busWrite_timer hu]
      | init hu hw => simp [busWrite_timer hw, busWrite_timer hu, ← List.drop_tail]
      | attach port n c hc hu =>
        intro d hd
        obtain rfl : c = d := Fin.ext (Nat.succ.inj (hc.symm.trans hd))
        simp only [attached_timer, latched, State.timerTurn_active, State.requestLatch_active, busWrite_active hu,
          State.timerTurn_timer, State.requestLatch_timer, busWrite_timer hu, channelOwned_iff_mask]
        split <;> simp
      | detach port c =>
        intro d hd
        obtain ⟨port', n, rfl⟩ := pinOf_of_completed h ht hd
        rw [Host.Outcome.next.inj (h.symm.trans (exec_detach_of_running hrun port' n d)), detached_timer]
        simp only [channelOwned_iff_mask]

/-- Settles O38: the value just staged and requested is what a boundary gives, before and after the turns that follow. -/
theorem nextBoundaryAppliesTheWrittenValue : Obligations.NextBoundaryAppliesTheWrittenValue := by
  intro i s t hp h ht
  have hrun := (exec_next h).1
  cases i with
  | init prescale period =>
    cases (exec_init_of_running hp hrun prescale period).symm.trans h
    exact staged_boundary_applied periodReg _
  | setper period =>
    cases (exec_setper_of_running hp hrun period).symm.trans h
    exact staged_boundary_applied periodReg _
  | setmatch p v =>
    intro c hc
    obtain ⟨port, n, rfl⟩ := pinOf_of_completed h ht hc
    exact (boundary_applied_of_write hp (.inl rfl) h ht).2
  | attach p v =>
    intro c hc
    obtain ⟨port, n, rfl⟩ := pinOf_of_completed h ht hc
    exact (boundary_applied_of_write hp (.inr rfl) h ht).2
  | detach | pinact | chact | feat | mraddr | bitidx | markact | markinact | mrrd | mrwr => exact State.boundary_ler t

/-- Settles O42: the other port's bit keeps the channel owned, so that DETACH performs its first access alone. -/
theorem detachedPinKeepsDriving : Obligations.DetachedPinKeepsDriving := by
  intro s port other n c hf hdriving hother howned
  have hstill : channelOwned (s.active &&& ~~~ bit (bitIndex port c)) c = true := by
    refine (channelOwned_iff _ c).mpr ⟨other, ?_⟩
    rw [ownsChannel_markInactive]
    simpa [hother, ownsChannel, bitIndex] using howned
  refine ⟨_, exec_detach_of_running hf port n c, ?_⟩
  rw [detached_of_owned hstill]
  exact ⟨hdriving, by simp [ownsChannel_markInactive], rfl, rfl, rfl⟩

/-- Settles O45: no boundary, or the first one, which is enabled exactly where the timer runs. -/
theorem endStatesOfACompletedRun : Obligations.EndStatesOfACompletedRun := by
  intro s t
  refine ⟨and_congr_right fun hdone => ?_, boundary_ler_get s⟩
  have henabled := boundaryEnabled_of_completed hdone
  constructor
  · rintro ⟨n, rfl⟩
    cases n with
    | zero => exact .inl rfl
    | succ n =>
      rw [afterBoundaries_succ, henabled]
      split
      · exact .inr ⟨‹_›, rfl⟩
      · exact .inl rfl
  · rintro (rfl | ⟨hruns, rfl⟩)
    · exact ⟨0, rfl⟩
    · exact ⟨1, by rw [afterBoundaries_succ, henabled, if_pos hruns]⟩

/-- Settles O8: the caller has nothing left to do. -/
theorem completedRunOnlyTurnsTheTimer : Obligations.CompletedRunOnlyTurnsTheTimer :=
  fun _ hr hdone hread => ⟨step_of_completed hr hdone hread, runStatus_of_completed hr hdone⟩

/-- Settles O53: the fields of `State.reset`, entry by entry where they are vectors. -/
theorem resetStateAsSpecified : Obligations.ResetStateAsSpecified := by
  refine ⟨rfl, rfl, rfl, ?registers, ?enable, ?pinmux, rfl, rfl, rfl⟩
  case registers => decide
  case enable => decide
  case pinmux => decide

end Sys2Proof.Machine
end
